-- ==== Sys2Proof/Word.lean ====
section
/-! DEFINITION. The byte and the six-byte array the spec counts in (spec/00_scope.md R12). -/

namespace Sys2Proof

/-- One byte of the host port or of the two-wire bus. -/
abbrev Byte := BitVec 8

/-- An array of six bytes, index 0 first on the wire: the register image IMG and the read-back block RBUF
(spec/10_state.md R27, R28). It is not a number, so it has no byte order (spec/20_memory.md R67). -/
structure Bytes6 where
  b0 : Byte
  b1 : Byte
  b2 : Byte
  b3 : Byte
  b4 : Byte
  b5 : Byte
deriving DecidableEq, Repr, Inhabited

/-- The six bytes in index order. -/
def Bytes6.toList (b : Bytes6) : List Byte :=
  [b.b0, b.b1, b.b2, b.b3, b.b4, b.b5]

/-- All six bytes zero. -/
def Bytes6.zero : Bytes6 :=
  ⟨0, 0, 0, 0, 0, 0⟩

end Sys2Proof
end

