-- ==== Sys2Proof/Syntax.lean ====
section
/-! DEFINITION. The commands, one constructor per row of spec/opcode_table.json, and the events that reach the
engine from outside. -/

namespace Sys2Proof

/-- The eleven commands of spec/30_encoding.md R91. Format C8 has no operand field (R90), so no constructor has an
argument: operands and results are in fixed registers (R93). -/
inductive Instr where
  | nop
  | mul
  | divr
  | solve
  | calcCmd
  | decideCmd
  | wrlarge
  | wrsmall
  | detect
  | setfreq
  | online
deriving DecidableEq, Repr

/-- One event the outside world sends to the engine: a byte access of the host port (spec/20_memory.md R61, R62; the
address is seven bits wide, R65), or the reset event (spec/70_reset_and_hazards.md R280). Log entries 4 and 8. -/
inductive HostEvent where
  | rd (a : BitVec 7)
  | wr (a : BitVec 7) (v : Byte)
  | reset
deriving DecidableEq, Repr

/-- The rw bit of `start-transaction` (spec/00_scope.md R14). -/
inductive BusDir where
  | write
  | read
deriving DecidableEq, Repr

/-- The argument of `receive-byte` (spec/00_scope.md R14). -/
inductive BusAck where
  | ack
  | nack
deriving DecidableEq, Repr

/-- One event of the bus trace (spec/44_write_protocol.md R190): `S(addr, rw)`, `T(b)`, `Rx(k)=b`, `P`, `E=e`, `W`. -/
inductive BusEvent where
  | start (addr : BitVec 7) (rw : BusDir)
  | send (b : Byte)
  | recv (k : BusAck) (b : Byte)
  | stop
  | err (e : Bool)
  | settle
deriving DecidableEq, Repr

end Sys2Proof
end

