-- ==== Sys2Proof/Config.lean ====
section
/-! DEFINITION. The implementation parameters of spec/00_scope.md R8 and the values the spec leaves open. -/

namespace Sys2Proof

/-- The forbidden (N1, HS_DIV) pairs of grades B, C and D (spec/00_scope.md R9). Grade A has none. Grade D is grade C
with the one pair `cdDiff` toggled, because "the symmetric difference of FORBID(C) and FORBID(D) has exactly one
element". -/
structure ForbidTables where
  b : List (Nat × Nat)
  c : List (Nat × Nat)
  cdDiff : Nat × Nat
deriving DecidableEq, Repr, Inhabited

/-- The configuration record of spec/00_scope.md R8. `forbid` and `signature` are the OPEN parameters: `none` says that
nobody has supplied them, and then a value nobody knows answers (`Config.forbid`, `Config.signature`). RFREQ_BITS is
fixed at 38 and T_SETTLE is not represented (spec/45_autodetect.md R224), so neither is a field. Log entries 1 to 3. -/
structure Params where
  /-- DCO_MIN_MHZ -/
  dcoMinMHz : Nat
  /-- DCO_MAX8, in units of 8 MHz -/
  dcoMax8 : BitVec 24
  /-- RFREQ_FRAC -/
  rfreqFrac : Nat
  /-- FORBID(B), FORBID(C), FORBID(D), if supplied -/
  forbid : Option ForbidTables
  /-- SLA -/
  sla : BitVec 7
  /-- IDX0 -/
  idx0 : Byte
  /-- IDX1 -/
  idx1 : Byte
  /-- REG_FRZ -/
  regFrz : Byte
  /-- FRZ_DCO -/
  frzDco : Byte
  /-- REG_NEWF -/
  regNewf : Byte
  /-- NEWFREQ -/
  newfreq : Byte
  /-- REG_FRZM -/
  regFrzm : Byte
  /-- FRZ_M -/
  frzM : Byte
  /-- REG_RCL -/
  regRcl : Byte
  /-- RECALL -/
  recallBit : Byte
  /-- PROBE_IDX: IDX1 if true, IDX0 if false (it is one of the two) -/
  probeNewer : Bool
  /-- SIGNATURE, if supplied -/
  signature : Option Bytes6
deriving DecidableEq, Repr

/-- The default column of spec/00_scope.md R8. PRESUMED, log entry 1 (unsafe): the spec marks these numbers as general
knowledge; no rule depends on them. The open tables and the signature are not supplied. -/
def Params.default : Params where
  dcoMinMHz := 4850
  dcoMax8 := 709
  rfreqFrac := 28
  forbid := none
  sla := 0x55
  idx0 := 7
  idx1 := 13
  regFrz := 137
  frzDco := 0x10
  regNewf := 135
  newfreq := 0x40
  regFrzm := 135
  frzM := 0x20
  regRcl := 135
  recallBit := 0x01
  probeNewer := false
  signature := none

/-- The forbidden tables where the parameter record does not supply them: free (spec/00_scope.md R9). Log entry 2. -/
opaque Config.forbid : ForbidTables

/-- The signature where the parameter record does not supply it: free (spec/45_autodetect.md R221). Log entry 3. -/
opaque Config.signature : Bytes6

/-- What `BusErr()` answers after the given history of bus events, where no answer was supplied from outside: free
(spec/44_write_protocol.md R190). Log entry 6. -/
opaque Config.busErr : List BusEvent → Bool

/-- What `BusRecv()` answers after the given history of bus events, where no answer was supplied from outside: free
(spec/44_write_protocol.md R190). Log entry 6. -/
opaque Config.busByte : List BusEvent → Byte

/-- The image of a divider outside the ranges of spec/30_encoding.md R97, from HS_DIV, N1 and the fractional value: free.
No run from reset asks for it. Log entry 11. -/
opaque Config.packOutside : Nat → Nat → Nat → Bytes6

end Sys2Proof
end

