-- ==== Sys2Proof/WellFormed.lean ====
section
/-! DEFINITION. Which commands and which parameter records are well formed. -/

namespace Sys2Proof

/-- Every command is well formed: format C8 has no field that could be out of range (spec/30_encoding.md R90). -/
def Instr.wellFormed : Instr → Bool
  | .nop => true
  | .mul => true
  | .divr => true
  | .solve => true
  | .calcCmd => true
  | .decideCmd => true
  | .wrlarge => true
  | .wrsmall => true
  | .detect => true
  | .setfreq => true
  | .online => true

/-- The legal ranges of spec/00_scope.md R8 that the field types do not already enforce. -/
abbrev Params.WellFormed (p : Params) : Prop :=
  1 ≤ p.dcoMinMHz ∧ p.dcoMinMHz ≤ 8191 ∧ p.rfreqFrac ≤ 37 ∧ p.idx1 ≠ p.idx0

end Sys2Proof
end

