-- ==== Sys2Proof/Decode.lean ====
section
/-! DEFINITION. From the byte written to CMD to the command, and back (spec/30_encoding.md R90 to R92, R103). -/

namespace Sys2Proof

/-- Why a byte is no command. -/
inductive DecodeError where
  /-- The byte is one of the 245 illegal encodings of spec/30_encoding.md R92; the engine reports ERR_ILLEGAL. -/
  | illegalCommand (c : Byte)
deriving DecidableEq, Repr

/-- One row of spec/opcode_table.json: a byte is this command when `byte & mask = pattern` (R103). -/
structure OpcodeRow where
  mask : Byte
  pattern : Byte
  instr : Instr
deriving DecidableEq, Repr

/-- The rows of spec/opcode_table.json, in its order. -/
def opcodeTable : List OpcodeRow :=
  [ ⟨0xFF, 0x00, .nop⟩,
    ⟨0xFF, 0x01, .mul⟩,
    ⟨0xFF, 0x02, .divr⟩,
    ⟨0xFF, 0x10, .solve⟩,
    ⟨0xFF, 0x11, .calcCmd⟩,
    ⟨0xFF, 0x12, .decideCmd⟩,
    ⟨0xFF, 0x20, .wrlarge⟩,
    ⟨0xFF, 0x21, .wrsmall⟩,
    ⟨0xFF, 0x22, .detect⟩,
    ⟨0xFF, 0x30, .setfreq⟩,
    ⟨0xFF, 0x31, .online⟩ ]

/-- The command a byte written to CMD starts: the row whose masked bits match, else illegal (R92, R103). -/
def decode (c : Byte) : Except DecodeError Instr :=
  match opcodeTable.find? (fun r => c &&& r.mask == r.pattern) with
  | some r => .ok r.instr
  | none => .error (.illegalCommand c)

/-- The command byte of a command, from the opcode map of R91. -/
def encode : Instr → Byte
  | .nop => 0b00000000
  | .mul => 0b00000001
  | .divr => 0b00000010
  | .solve => 0b00010000
  | .calcCmd => 0b00010001
  | .decideCmd => 0b00010010
  | .wrlarge => 0b00100000
  | .wrsmall => 0b00100001
  | .detect => 0b00100010
  | .setfreq => 0b00110000
  | .online => 0b00110001

/-- The byte of an instruction word of `nbits` bits numbered as spec/opcode_table.json numbers them: every command is one
byte (R90), so it is the low byte, and bits above `nbits` are 0. -/
def commandByte (nbits w : Nat) : Byte :=
  BitVec.ofNat 8 (w % 2 ^ nbits)

/-- The command the decoder reads from an instruction word of the opcode table. -/
def decodeTableWord (nbits w : Nat) : Option Instr :=
  match decode (commandByte nbits w) with
  | .ok i => some i
  | .error _ => none

end Sys2Proof
end

