-- ==== Sys2Proof/Machine/State.lean ====
section
/-! DEFINITION. The state of the engine, the reasons a step could stop, and the state after reset. -/

namespace Sys2Proof.Machine

/-- The error codes of STATUS.ERR (spec/10_state.md R46, spec/60_exceptions.md R253). Codes 6 and 7 are never produced, so
they have no name here. Log entry 13. -/
inductive Err where
  | ok
  | noDiv
  | dco
  | bus
  | cfg
  | illegal
deriving DecidableEq, Repr

/-- The states of the write sequencer (spec/10_state.md R49). Codes 5 to 7 never occur. Log entry 13. -/
inductive Seq where
  | idle
  | frozen
  | written
  | unfrozen
  | committed
deriving DecidableEq, Repr

/-- A divider configuration (spec/10_state.md R25): HS_DIV, N1 and their product N. -/
structure Divider where
  hs : BitVec 8
  n1 : BitVec 8
  n : BitVec 16
deriving DecidableEq, Repr

/-- The value that means "no divider configuration": HS_DIV 0 is not legal (spec/10_state.md R25). -/
def Divider.unset : Divider := ⟨0, 0, 0⟩

/-- The state of the engine: the registers of spec/10_state.md R20, then the model's own fields, which are its
parameters, its inputs not yet taken and its outputs so far (log entries 1, 4 to 7). -/
structure State where
  /-- FREQ, Q11.21 (R21) -/
  freq : BitVec 32
  /-- XTAL, Q8.24 (R31) -/
  xtal : BitVec 32
  /-- PPM (R32) -/
  ppm : BitVec 16
  /-- GRADE: 0 = A, 1 = B, 2 = C, 3 = D (R33) -/
  grade : BitVec 2
  /-- ADDRMODE: bit 0 SCHEME, bit 1 FREEZE_M, bit 2 AUTO (R34) -/
  addrmode : BitVec 3
  /-- MA (R23) -/
  ma : BitVec 16
  /-- MB (R23) -/
  mb : BitVec 32
  /-- DVS (R24) -/
  dvs : BitVec 32
  /-- PROD (R23) -/
  prod : BitVec 48
  /-- QUOT (R24) -/
  quot : BitVec 40
  /-- DIV_HS, DIV_N1, DIV_N (R25) -/
  div : Divider
  /-- CDIV_HS, CDIV_N1, CDIV_N (R26) -/
  cdiv : Divider
  /-- IMG[0..5] (R27) -/
  img : Bytes6
  /-- CENTER, Q11.21 (R40) -/
  center : BitVec 32
  /-- FLAGS.CENTER_VALID (R44) -/
  centerValid : Bool
  /-- FLAGS.RESULT (R45) -/
  result : Bool
  /-- FLAGS.PATH (R45) -/
  path : Bool
  /-- FLAGS.QOVF (R45) -/
  qovf : Bool
  /-- STATUS.ERR (R46) -/
  err : Err
  /-- SEQ (R49) -/
  seq : Seq
  /-- RBUF[0..5] (R28) -/
  rbuf : Bytes6
  /-- the parameters of spec/00_scope.md R8, which no step changes -/
  params : Params
  /-- host events not yet taken, next first -/
  hostIn : List HostEvent
  /-- bytes the host's reads have returned, oldest first -/
  hostOut : List Byte
  /-- answers of `BusErr()` supplied from outside and not yet used, next first -/
  errIn : List Bool
  /-- answers of `BusRecv()` supplied from outside and not yet used, next first -/
  rxIn : List Byte
  /-- the bus trace, oldest event first (spec/44_write_protocol.md R190, spec/20_memory.md R76) -/
  trace : List BusEvent
deriving DecidableEq, Repr

/-- Why the machine could stop. There is no such reason: "Host port accesses never fault" (spec/60_exceptions.md R266) and
"All errors are non-fatal" (R265), so this closed type has no constructor. Safe. Log entry 17. -/
inductive Fault where
deriving DecidableEq, Repr

/-- Why an instruction could have no meaning. -/
inductive Refusal where
  /-- Raised by an arm of `exec` whose command has no meaning in the model yet; no arm is left that raises it. Safe. -/
  | notModelled (mnemonic : String)
deriving DecidableEq, Repr

/-- The engine right after reset: every register of spec/10_state.md R20 at the value of its last column, all zero (R55,
spec/70_reset_and_hazards.md R280). The model's own fields: the default parameters (log entry 1), nothing pending and
nothing emitted (log entry 15). -/
def State.reset : State where
  freq := 0
  xtal := 0
  ppm := 0
  grade := 0
  addrmode := 0
  ma := 0
  mb := 0
  dvs := 0
  prod := 0
  quot := 0
  div := Divider.unset
  cdiv := Divider.unset
  img := Bytes6.zero
  center := 0
  centerValid := false
  result := false
  path := false
  qovf := false
  err := .ok
  seq := .idle
  rbuf := Bytes6.zero
  params := Params.default
  hostIn := []
  hostOut := []
  errIn := []
  rxIn := []
  trace := []

end Sys2Proof.Machine
end

