-- ==== Sys2Proof/Machine/Ops.lean ====
section
/-! DEFINITION. The shared operations: starting and failing a command, the reset event, byte views of registers, the bus
primitives and the three transaction shapes. -/

namespace Sys2Proof.Machine

/-! ### Errors (spec/60_exceptions.md section 1) -/

/-- The first action of every command, legal or not: `STATUS.ERR <- OK` (R250). -/
def State.startCommand (s : State) : State :=
  { s with err := .ok }

/-- `fail E` (R252): the one way an exceptional event is taken. The code goes to STATUS.ERR, nothing is saved, nothing is
rolled back and control goes nowhere (R262); the caller issues nothing after it. There is no return from it (R263): the
next command's `startCommand` clears the code. -/
def State.fail (e : Err) (s : State) : State :=
  { s with err := e }

/-- A byte that is no command was written to CMD (R258): `STATUS.ERR <- OK`, then `fail ERR_ILLEGAL`. -/
def illegalCommand (s : State) : State :=
  s.startCommand.fail .illegal

/-! ### Reset (spec/70_reset_and_hazards.md R280) -/

/-- The reset event: every register to its reset value. The parameters are fixed before reset and are not registers (R282),
no bus event is issued, and the inputs and outputs of the outside world stay. Log entry 8. -/
def State.resetRegisters (s : State) : State :=
  { State.reset with
    params := s.params
    hostIn := s.hostIn
    hostOut := s.hostOut
    errIn := s.errIn
    rxIn := s.rxIn
    trace := s.trace }

/-! ### Byte views of registers (spec/00_scope.md R12, spec/20_memory.md R66) -/

/-- `REG.bk`, bits 8k+7 down to 8k of a register. -/
def getByte {w : Nat} (v : BitVec w) (k : Nat) : Byte :=
  BitVec.ofNat 8 (v.toNat >>> (8 * k))

/-- The register with its byte k replaced. -/
def setByte {w : Nat} (v : BitVec w) (k : Nat) (b : Byte) : BitVec w :=
  (v &&& ~~~((BitVec.ofNat w 0xFF) <<< (8 * k))) ||| ((b.setWidth w) <<< (8 * k))

/-- Byte i of a six-byte array; 0 past its end. -/
def getSix (x : Bytes6) (i : Nat) : Byte :=
  match i with
  | 0 => x.b0
  | 1 => x.b1
  | 2 => x.b2
  | 3 => x.b3
  | 4 => x.b4
  | 5 => x.b5
  | _ => 0

/-- The six-byte array with its byte i replaced. -/
def setSix (x : Bytes6) (i : Nat) (v : Byte) : Bytes6 :=
  match i with
  | 0 => { x with b0 := v }
  | 1 => { x with b1 := v }
  | 2 => { x with b2 := v }
  | 3 => { x with b3 := v }
  | 4 => { x with b4 := v }
  | 5 => { x with b5 := v }
  | _ => x

/-! ### The bus primitives (spec/00_scope.md R14, spec/44_write_protocol.md R190) -/

/-- Append one event to the bus trace. -/
def emit (ev : BusEvent) (s : State) : State :=
  { s with trace := s.trace ++ [ev] }

/-- `BusStart(addr, rw)` -/
def busStart (addr : BitVec 7) (rw : BusDir) (s : State) : State :=
  emit (.start addr rw) s

/-- `BusSend(b)` -/
def busSend (b : Byte) (s : State) : State :=
  emit (.send b) s

/-- `BusSend` of each byte of a list, in order. -/
def busSendAll (bs : List Byte) (s : State) : State :=
  bs.foldl (fun t b => busSend b t) s

/-- `BusStop()` -/
def busStop (s : State) : State :=
  emit .stop s

/-- `WaitSettle()`: one event, no effect on engine state (spec/45_autodetect.md R224). -/
def waitSettle (s : State) : State :=
  emit .settle s

/-- What the transport answers to the next `BusErr()`: the next answer supplied from outside, else a free value. -/
def errAnswer (s : State) : Bool :=
  match s.errIn with
  | e :: _ => e
  | [] => Config.busErr s.trace

/-- What the transport answers to the next `BusRecv()`: the next answer supplied from outside, else a free value. -/
def byteAnswer (s : State) : Byte :=
  match s.rxIn with
  | b :: _ => b
  | [] => Config.busByte s.trace

/-- `BusErr()`: the error flag (true is 1), the event `E=e` and the state after the answer is used. -/
def busErr (s : State) : Bool × State :=
  (errAnswer s, emit (.err (errAnswer s)) { s with errIn := s.errIn.tail })

/-- `BusRecv(k)`: the byte, the event `Rx(k)=b` and the state after the answer is used. -/
def busRecv (k : BusAck) (s : State) : Byte × State :=
  (byteAnswer s, emit (.recv k (byteAnswer s)) { s with rxIn := s.rxIn.tail })

/-! ### The three transaction shapes (spec/44_write_protocol.md R191 to R193) -/

/-- `wreg(reg, val)` (R191): one transaction, then the error flag. -/
def wreg (reg val : Byte) (s : State) : Bool × State :=
  busErr (busStop (busSend val (busSend reg (busStart s.params.sla .write s))))

/-- `wblock(idx, B)` (R192): the index and the six bytes in one transaction, then the error flag. -/
def wblock (idx : Byte) (b : Bytes6) (s : State) : Bool × State :=
  busErr (busStop (busSendAll b.toList (busSend idx (busStart s.params.sla .write s))))

/-- Receive six bytes, acknowledging all but the last (R193). -/
def recvSix (s : State) : Bytes6 × State :=
  let r0 := busRecv .ack s
  let r1 := busRecv .ack r0.2
  let r2 := busRecv .ack r1.2
  let r3 := busRecv .ack r2.2
  let r4 := busRecv .ack r3.2
  let r5 := busRecv .nack r4.2
  (⟨r0.1, r1.1, r2.1, r3.1, r4.1, r5.1⟩, r5.2)

/-- The first transaction of a block read: it writes the register index (R193). -/
def writeIndex (idx : Byte) (s : State) : Bool × State :=
  busErr (busStop (busSend idx (busStart s.params.sla .write s)))

/-- The second transaction of a block read: it reads the six bytes (R193). -/
def readSix (s : State) : Bool × Bytes6 × State :=
  let d := recvSix (busStart s.params.sla .read s)
  let e := busErr (busStop d.2)
  (e.1, d.1, e.2)

/-- `rblock(idx)` (R193): the six bytes, or none when one of the two transactions reports an error; the second transaction
is not started after an error in the first. -/
def rblock (idx : Byte) (s : State) : Option Bytes6 × State :=
  match writeIndex idx s with
  | (true, s1) => (none, s1)
  | (false, s1) =>
    match readSix s1 with
    | (true, _, s2) => (none, s2)
    | (false, d, s2) => (some d, s2)

end Sys2Proof.Machine
end

