-- ==== Sys2Proof/Machine/Flags.lean ====
section
/-! DEFINITION. The codes of the small fields and the byte views of STATUS, FLAGS, SEQ (spec/30_encoding.md R99). -/

namespace Sys2Proof.Machine

/-- The code of STATUS.ERR (spec/10_state.md R46). -/
def Err.code : Err → BitVec 3
  | .ok => 0
  | .noDiv => 1
  | .dco => 2
  | .bus => 3
  | .cfg => 4
  | .illegal => 5

/-- The code of SEQ (spec/10_state.md R49). -/
def Seq.code : Seq → BitVec 3
  | .idle => 0
  | .frozen => 1
  | .written => 2
  | .unfrozen => 3
  | .committed => 4

/-- The STATUS byte: ERR in bits 2:0, bits 7:3 read 0 (spec/10_state.md R46). -/
def statusByte (s : State) : Byte :=
  s.err.code.setWidth 8

/-- The SEQ byte: the state in bits 2:0, bits 7:3 read 0 (spec/10_state.md R49). -/
def seqByte (s : State) : Byte :=
  s.seq.code.setWidth 8

/-- The FLAGS byte: bit 0 CENTER_VALID, bit 1 RESULT, bit 2 PATH, bit 3 QOVF, bits 7:4 read 0 (spec/10_state.md R45). -/
def flagsByte (s : State) : Byte :=
  BitVec.ofNat 8
    (s.centerValid.toNat + 2 * s.result.toNat + 4 * s.path.toNat + 8 * s.qovf.toNat)

/-- ADDRMODE.SCHEME: 1 is the newer scheme (spec/10_state.md R34). -/
def State.scheme (s : State) : Bool :=
  s.addrmode.getLsbD 0

/-- ADDRMODE.FREEZE_M (spec/10_state.md R34). -/
def State.freezeM (s : State) : Bool :=
  s.addrmode.getLsbD 1

/-- ADDRMODE.AUTO: detection is pending (spec/10_state.md R34). -/
def State.auto (s : State) : Bool :=
  s.addrmode.getLsbD 2

/-- ADDRMODE after a detection that matched: SCHEME 0, FREEZE_M 0, AUTO 0 (spec/45_autodetect.md R222). -/
def addrmodeOlder : BitVec 3 := 0b000

/-- ADDRMODE after a detection that did not match: SCHEME 1, FREEZE_M 1, AUTO 0 (spec/45_autodetect.md R222). -/
def addrmodeNewer : BitVec 3 := 0b011

/-- FLAGS.QOVF for a rounded quotient: it does not fit 40 bits (spec/40_fixed_point.md R127). -/
def quotientOverflows (r : Nat) : Bool :=
  decide (2 ^ 40 ≤ r)

end Sys2Proof.Machine
end

