-- ==== Sys2Proof/Machine/Operands.lean ====
section
/-! DEFINITION. The host port: the register map of spec/20_memory.md R64, a byte read, a byte write, and which host event
comes next. Every operand of a command is a whole register assembled here from bytes (spec/30_encoding.md R93). -/

namespace Sys2Proof.Machine

/-- The registers of the host map (spec/20_memory.md R64). -/
inductive HostReg where
  | freq
  | xtal
  | ppm
  | grade
  | addrmode
  | ma
  | mb
  | dvs
  | prod
  | quot
  | divHs
  | divN1
  | divN
  | cdivHs
  | cdivN1
  | cdivN
  | img
  | center
  | status
  | flags
  | seq
  | cmd
  | rbuf
deriving DecidableEq, Repr

/-- One row of the host map: base address, number of bytes, register. -/
structure MapRow where
  base : Nat
  len : Nat
  reg : HostReg
deriving DecidableEq, Repr

/-- The host register map, in the order of R64; addresses in no row are reserved (R65). -/
def hostMap : List MapRow :=
  [ ⟨0x00, 4, .freq⟩,
    ⟨0x04, 4, .xtal⟩,
    ⟨0x08, 2, .ppm⟩,
    ⟨0x0A, 1, .grade⟩,
    ⟨0x0B, 1, .addrmode⟩,
    ⟨0x0C, 2, .ma⟩,
    ⟨0x10, 4, .mb⟩,
    ⟨0x14, 4, .dvs⟩,
    ⟨0x18, 6, .prod⟩,
    ⟨0x20, 5, .quot⟩,
    ⟨0x28, 1, .divHs⟩,
    ⟨0x29, 1, .divN1⟩,
    ⟨0x2A, 2, .divN⟩,
    ⟨0x2C, 1, .cdivHs⟩,
    ⟨0x2D, 1, .cdivN1⟩,
    ⟨0x2E, 2, .cdivN⟩,
    ⟨0x30, 6, .img⟩,
    ⟨0x38, 4, .center⟩,
    ⟨0x3C, 1, .status⟩,
    ⟨0x3D, 1, .flags⟩,
    ⟨0x3E, 1, .seq⟩,
    ⟨0x3F, 1, .cmd⟩,
    ⟨0x40, 6, .rbuf⟩ ]

/-- The register and the byte index at a host address; none for a reserved address. -/
def locate (a : BitVec 7) : Option (HostReg × Nat) :=
  match hostMap.find? (fun r => r.base ≤ a.toNat && a.toNat < r.base + r.len) with
  | some r => some (r.reg, a.toNat - r.base)
  | none => none

/-- Byte k of a register as the host reads it: little-endian for a multi-byte register (R66), by index for an array, the
field in the low bits for a narrow one (R61), 0 for CMD (spec/10_state.md R50). -/
def readReg (s : State) (r : HostReg) (k : Nat) : Byte :=
  match r with
  | .freq => getByte s.freq k
  | .xtal => getByte s.xtal k
  | .ppm => getByte s.ppm k
  | .grade => getByte s.grade k
  | .addrmode => getByte s.addrmode k
  | .ma => getByte s.ma k
  | .mb => getByte s.mb k
  | .dvs => getByte s.dvs k
  | .prod => getByte s.prod k
  | .quot => getByte s.quot k
  | .divHs => s.div.hs
  | .divN1 => s.div.n1
  | .divN => getByte s.div.n k
  | .cdivHs => s.cdiv.hs
  | .cdivN1 => s.cdiv.n1
  | .cdivN => getByte s.cdiv.n k
  | .img => getSix s.img k
  | .center => getByte s.center k
  | .status => statusByte s
  | .flags => flagsByte s
  | .seq => seqByte s
  | .cmd => 0
  | .rbuf => getSix s.rbuf k

/-- A host write of byte k of a register (R62): a register marked RW takes the byte (a narrow one its low bits); a read-only
register ignores it. CMD is not written here: it starts a command (`nextAction`). -/
def writeReg (s : State) (r : HostReg) (k : Nat) (v : Byte) : State :=
  match r with
  | .freq => { s with freq := setByte s.freq k v }
  | .xtal => { s with xtal := setByte s.xtal k v }
  | .ppm => { s with ppm := setByte s.ppm k v }
  | .grade => { s with grade := v.setWidth 2 }
  | .addrmode => { s with addrmode := v.setWidth 3 }
  | .ma => { s with ma := setByte s.ma k v }
  | .mb => { s with mb := setByte s.mb k v }
  | .dvs => { s with dvs := setByte s.dvs k v }
  | .prod => { s with prod := setByte s.prod k v }
  | .img => { s with img := setSix s.img k v }
  | .quot => s
  | .divHs => s
  | .divN1 => s
  | .divN => s
  | .cdivHs => s
  | .cdivN1 => s
  | .cdivN => s
  | .center => s
  | .status => s
  | .flags => s
  | .seq => s
  | .cmd => s
  | .rbuf => s

/-- `MemRead(a, 1)` (R61): the byte at a host address, 0 at a reserved one. It is the model's read of one byte. -/
def hostRead (s : State) (a : BitVec 7) : Byte :=
  match locate a with
  | some (r, k) => readReg s r k
  | none => 0

/-- `MemWrite(a, 1, v)` at any address but CMD (R62): nothing happens at a reserved address. -/
def hostWrite (s : State) (a : BitVec 7) (v : Byte) : State :=
  match locate a with
  | some (r, k) => writeReg s r k v
  | none => s

/-- The address of CMD (R64). -/
def cmdAddr : BitVec 7 := 0x3F

/-- A host read completes: the byte goes out to the host and nothing else changes (R61). Log entry 5. -/
def completeRead (s : State) (a : BitVec 7) : State :=
  { s with hostOut := s.hostOut ++ [hostRead s a] }

/-- What the next step is about. -/
inductive Action where
  /-- no host event is pending -/
  | idle
  /-- a host event that starts no command; the state after it -/
  | done (s : State)
  /-- a byte was written to CMD; the state the command starts in -/
  | command (c : Byte) (s : State)
deriving DecidableEq, Repr

/-- Take the next host event. This is where the engine fetches its next command: it has no program counter
(spec/10_state.md R22), the host's write to CMD is the command (spec/30_encoding.md R90). Log entry 4. -/
def nextAction (s : State) : Action :=
  match s.hostIn with
  | [] => .idle
  | .rd a :: rest => .done (completeRead { s with hostIn := rest } a)
  | .wr a v :: rest =>
    if a = cmdAddr then .command v { s with hostIn := rest }
    else .done (hostWrite { s with hostIn := rest } a v)
  | .reset :: rest => .done (State.resetRegisters { s with hostIn := rest })

/-- The state with a write of a byte to CMD as its next host event. -/
def withCommandByte (s : State) (c : Byte) : State :=
  { s with hostIn := .wr cmdAddr c :: s.hostIn }

end Sys2Proof.Machine
end

