-- ==== Sys2Proof/Machine/FixedPoint.lean ====
section
/-! DEFINITION. The fixed-point unit and the commands NOP, MUL, DIVR (spec/40_fixed_point.md). -/

namespace Sys2Proof.Machine

/-! ### Pure functions -/

/-- `int_mhz(a)`: the integer part of a Q11.21 word, in MHz (R121). -/
def intMHz (a : BitVec 32) : Nat :=
  a.toNat / 2 ^ 21

/-- `absdiff(a, b)` of two Q11.21 words (R121). -/
def absdiff (a b : BitVec 32) : Nat :=
  if b.toNat ≤ a.toNat then a.toNat - b.toNat else b.toNat - a.toNat

/-- `mul16x32(a, b)`: the exact product in 48 bits (R122). -/
def mul16x32 (a : BitVec 16) (b : BitVec 32) : BitVec 48 :=
  BitVec.ofNat 48 (a.toNat * b.toNat)

/-- The left shift of the dividend, `S = RFREQ_FRAC + 3` (R125, R126). -/
def divShift (p : Params) : Nat :=
  p.rfreqFrac + 3

/-- The dividend `D = p × 2^S` of the divider (R125). -/
def dividend (p : Params) (v : BitVec 48) : Nat :=
  v.toNat * 2 ^ divShift p

/-- `divround(p, x)`: the quotient rounded to the nearest integer, an exact half up (R125). Defined for `x > 0` only; the
commands test for 0 first. Log entry 12. -/
def divround (p : Params) (v : BitVec 48) (x : BitVec 32) : Nat :=
  let d := dividend p v
  d / x.toNat + (if x.toNat ≤ 2 * (d % x.toNat) then 1 else 0)

/-! ### The bit-serial forms the document describes, which no command uses (R123, R128) -/

/-- The shift-and-add multiplier after its first k steps, bits of b from the most significant down (R123). -/
def mulSerial (a : BitVec 16) (b : BitVec 32) : Nat → BitVec 48
  | 0 => 0
  | k + 1 =>
    let acc := mulSerial a b k <<< 1
    if b.getLsbD (31 - k) then acc + a.setWidth 48 else acc

/-- The working registers of the restoring divider: a 33-bit remainder and the quotient so far (R128). -/
structure SerialDivider where
  rem : BitVec 33
  quo : Nat
deriving DecidableEq, Repr

/-- One step of the restoring divider on the next bit of the dividend (R128). -/
def divStep (x : BitVec 32) (bit : Bool) (w : SerialDivider) : SerialDivider :=
  let r := (w.rem <<< 1) ||| (BitVec.ofBool bit).setWidth 33
  if x.setWidth 33 ≤ r then ⟨r - x.setWidth 33, 2 * w.quo + 1⟩ else ⟨r, 2 * w.quo⟩

/-- The restoring divider after its first k steps on the n low bits of d, most significant first (R128). -/
def divSerial (d : Nat) (x : BitVec 32) (n : Nat) : Nat → SerialDivider
  | 0 => ⟨0, 0⟩
  | k + 1 => divStep x (d.testBit (n - 1 - k)) (divSerial d x n k)

/-- `divround` as the document describes it: one division step past the last place, whose bit is added back (R128). -/
def divroundSerial (p : Params) (v : BitVec 48) (x : BitVec 32) : Nat :=
  let n := 48 + divShift p + 1
  let q := (divSerial (2 * dividend p v) x n n).quo
  q / 2 + q % 2

/-! ### Commands -/

/-- NOP (R129). -/
def execNop (s : State) : Host.Outcome State Fault Refusal :=
  .next s.startCommand

/-- MUL (R124). -/
def execMul (s : State) : Host.Outcome State Fault Refusal :=
  .next { s.startCommand with prod := mul16x32 s.ma s.mb }

/-- The state after DIVR (R127). -/
def divrState (s : State) : State :=
  if s.dvs = 0 then s.startCommand.fail .cfg
  else
    { s.startCommand with
      quot := BitVec.ofNat 40 (divround s.params s.prod s.dvs)
      qovf := quotientOverflows (divround s.params s.prod s.dvs) }

/-- DIVR (R127). -/
def execDivr (s : State) : Host.Outcome State Fault Refusal :=
  .next (divrState s)

end Sys2Proof.Machine
end

