-- ==== Sys2Proof/Machine/Solver.lean ====
section
/-! DEFINITION. The divider-constraint solver and the command SOLVE (spec/41_divider_solver.md). -/

namespace Sys2Proof.Machine

/-- Division rounded up (spec/00_scope.md R11), for b > 0. -/
def ceilDiv (a b : Nat) : Nat :=
  (a + b - 1) / b

/-- The least DCO frequency, DCO_MIN_MHZ, in units of 2^-21 MHz (R141). -/
def dcoMinQ21 (p : Params) : Nat :=
  p.dcoMinMHz * 2 ^ 21

/-- The estimate N0 of the least total division (R141). It exists for F > 0 only; `solveDivider` tests F first. -/
def n0 (p : Params) (f : BitVec 32) : Nat :=
  ceilDiv (dcoMinQ21 p) f.toNat

/-- The candidate HS_DIV values in trial order (R142). -/
def hsOrder : List Nat :=
  [11, 9, 7, 6, 5, 4]

/-- The candidate N1 for one HS_DIV, even unless it is 1 (R143). -/
def candidateN1 (est hs : Nat) : Nat :=
  let n1 := ceilDiv est hs
  if n1 ≠ 1 ∧ n1 % 2 = 1 then n1 + 1 else n1

/-- The tables of the grades that have one: those of the parameter record, else free (spec/00_scope.md R9). -/
def forbidTables (p : Params) : ForbidTables :=
  p.forbid.getD Config.forbid

/-- `(N1, HS_DIV) ∈ FORBID(g)` (spec/00_scope.md R9): grade A forbids nothing, grade D is grade C with one pair toggled. -/
def forbidden (p : Params) (g : BitVec 2) (n1 hs : Nat) : Bool :=
  match g.toNat with
  | 0 => false
  | 1 => (forbidTables p).b.contains (n1, hs)
  | 2 => (forbidTables p).c.contains (n1, hs)
  | _ => xor ((forbidTables p).c.contains (n1, hs)) ((n1, hs) == (forbidTables p).cdDiff)

/-- A candidate of the solver, in mathematical integers. -/
structure Candidate where
  hs : Nat
  n1 : Nat
  n : Nat
deriving DecidableEq, Repr

/-- The candidate for one HS_DIV value, unless it is rejected (N1 above 128) or skipped (forbidden) (R143, R144). -/
def candidate (p : Params) (g : BitVec 2) (est hs : Nat) : Option Candidate :=
  let n1 := candidateN1 est hs
  if 128 < n1 then none
  else if forbidden p g n1 hs then none
  else some ⟨hs, n1, hs * n1⟩

/-- Keep the candidate with the smaller N, the earlier one on a tie (R144). -/
def keepBest (best new : Option Candidate) : Option Candidate :=
  match best, new with
  | b, none => b
  | none, some c => some c
  | some b, some c => if c.n < b.n then some c else some b

/-- The best candidate over the trial order (R144). -/
def bestCandidate (p : Params) (g : BitVec 2) (est : Nat) : Option Candidate :=
  hsOrder.foldl (fun best hs => keepBest best (candidate p g est hs)) none

/-- `solve(F, g)` (R144): the divider configuration, or none. -/
def solveDivider (p : Params) (f : BitVec 32) (g : BitVec 2) : Option Divider :=
  if f = 0 then none
  else
    match bestCandidate p g (n0 p f) with
    | none => none
    | some c => some ⟨BitVec.ofNat 8 c.hs, BitVec.ofNat 8 c.n1, BitVec.ofNat 16 c.n⟩

/-- The state after SOLVE (R146). -/
def solveState (s : State) : State :=
  match solveDivider s.params s.freq s.grade with
  | none => s.startCommand.fail .noDiv
  | some d => { s.startCommand with div := d }

/-- SOLVE (R146). -/
def execSolve (s : State) : Host.Outcome State Fault Refusal :=
  .next (solveState s)

end Sys2Proof.Machine
end

