-- ==== Sys2Proof/Machine/TuningWord.lean ====
section
/-! DEFINITION. The register image, the tuning-word calculator and the command CALC (spec/30_encoding.md section 3,
spec/42_tuning_word.md). -/

namespace Sys2Proof.Machine

/-- The width of the fractional value, fixed by the document (spec/00_scope.md R8). -/
abbrev rfreqBits : Nat := 38

/-- The six wire bytes of HS_DIV - 4, N1 - 1 and the fractional value (spec/30_encoding.md R97). -/
def packFields (h m r : Nat) : Bytes6 where
  b0 := BitVec.ofNat 8 ((h <<< 5) ||| (m / 4 % 32))
  b1 := BitVec.ofNat 8 (((m % 4) <<< 6) ||| (r / 2 ^ 32 % 64))
  b2 := BitVec.ofNat 8 (r / 2 ^ 24)
  b3 := BitVec.ofNat 8 (r / 2 ^ 16)
  b4 := BitVec.ofNat 8 (r / 2 ^ 8)
  b5 := BitVec.ofNat 8 r

/-- The inputs `pack` is defined for (spec/30_encoding.md R97). -/
abbrev packDomain (hs n1 r : Nat) : Prop :=
  4 ≤ hs ∧ hs ≤ 11 ∧ 1 ≤ n1 ∧ n1 ≤ 128 ∧ r < 2 ^ rfreqBits

/-- `pack(hs, n1, R)` (spec/30_encoding.md R97). Outside its ranges the rule gives no bytes: a free value (log entry 11). -/
def pack (hs n1 r : Nat) : Bytes6 :=
  if packDomain hs n1 r then packFields (hs - 4) (n1 - 1) r else Config.packOutside hs n1 r

/-- What an image decodes to. -/
structure Unpacked where
  hs : Nat
  n1 : Nat
  r : Nat
deriving DecidableEq, Repr

/-- `unpack(IMG)` (spec/30_encoding.md R98). No command computes it. -/
def unpack (b : Bytes6) : Unpacked where
  hs := b.b0.toNat / 32 + 4
  n1 := b.b0.toNat % 32 * 4 + b.b1.toNat / 64 + 1
  r := b.b1.toNat % 64 * 2 ^ 32 + b.b2.toNat * 2 ^ 24 + b.b3.toNat * 2 ^ 16 + b.b4.toNat * 2 ^ 8 + b.b5.toNat

/-- The DCO estimate in whole units of 8 MHz: the product without its low 24 bits (R163). -/
def est8 (v : BitVec 48) : Nat :=
  v.toNat / 2 ^ 24

/-- `calc(F, hs, n1, n, X)` (R167): the image, or the first error in the order of the tests. -/
def calcImage (p : Params) (f : BitVec 32) (d : Divider) (x : BitVec 32) : Except Err Bytes6 :=
  let v := mul16x32 d.n f
  if p.dcoMax8.toNat < est8 v then .error .dco
  else if x = 0 then .error .cfg
  else if 2 ^ rfreqBits ≤ divround p v x then .error .cfg
  else .ok (pack d.hs.toNat d.n1.toNat (divround p v x))

/-- The state after CALC (R166). -/
def calcState (s : State) : State :=
  if s.div.hs = 0 then s.startCommand.fail .cfg
  else
    match calcImage s.params s.freq s.div s.xtal with
    | .error e => s.startCommand.fail e
    | .ok b => { s.startCommand with img := b }

/-- CALC (R166). -/
def execCalc (s : State) : Host.Outcome State Fault Refusal :=
  .next (calcState s)

end Sys2Proof.Machine
end

