-- ==== Sys2Proof/Machine/SmoothTune.lean ====
section
/-! DEFINITION. The smooth-tune decision and the command DECIDE (spec/43_smooth_tune.md). -/

namespace Sys2Proof.Machine

/-- `decide(F, C, v, p)` (R181): whether the change from the center C to F is small enough for the small path. -/
def smallChange (f c : BitVec 32) (valid : Bool) (ppm : BitVec 16) : Bool :=
  if ppm = 0 then false
  else if valid = false then false
  else decide (absdiff f c * 15 / 2 ^ 5 ≤ intMHz c * ppm.toNat)

/-- DECIDE (R184). -/
def execDecide (s : State) : Host.Outcome State Fault Refusal :=
  .next { s.startCommand with result := smallChange s.freq s.center s.centerValid s.ppm }

end Sys2Proof.Machine
end

