-- ==== Sys2Proof/Machine/WriteProtocol.lean ====
section
/-! DEFINITION. The register write sequences and the commands WRLARGE, WRSMALL (spec/44_write_protocol.md). -/

namespace Sys2Proof.Machine

/-- The block index the addressing scheme selects (R195). -/
def blockIndex (s : State) : Byte :=
  if s.scheme then s.params.idx1 else s.params.idx0

/-- `SEQ <- q`. -/
def State.setSeq (s : State) (q : Seq) : State :=
  { s with seq := q }

/-- One step of a write sequence: run a transaction; on an error the sequence ends (false) with SEQ as it stands, else SEQ
advances and the sequence goes on (R194, R196). -/
def seqStep (tx : State → Bool × State) (q : Seq) (k : State → Bool × State) (s : State) : Bool × State :=
  match tx s with
  | (true, s1) => (false, s1)
  | (false, s1) => k (s1.setSeq q)

/-- The end of a sequence all of whose steps succeeded. -/
def seqDone (s : State) : Bool × State :=
  (true, s)

/-- The end of a small change: SEQ <- COMMITTED without a strobe (R201). -/
def seqCommit (s : State) : Bool × State :=
  (true, s.setSeq .committed)

/-- `write_large(B, idx)` (R197): freeze, block, unfreeze, strobe; true is ok. -/
def writeLarge (b : Bytes6) (s : State) : Bool × State :=
  let p := s.params
  seqStep (wreg p.regFrz p.frzDco) .frozen
    (seqStep (wblock (blockIndex s) b) .written
      (seqStep (wreg p.regFrz 0x00) .unfrozen
        (seqStep (wreg p.regNewf p.newfreq) .committed seqDone)))
    (s.setSeq .idle)

/-- `write_small(B, idx, fm)` (R201): the block write, inside the "M" freeze bracket when FREEZE_M is 1; true is ok. -/
def writeSmall (b : Bytes6) (s : State) : Bool × State :=
  let p := s.params
  if s.freezeM then
    seqStep (wreg p.regFrzm p.frzM) .frozen
      (seqStep (wblock (blockIndex s) b) .written
        (seqStep (wreg p.regFrzm 0x00) .unfrozen seqCommit))
      (s.setSeq .idle)
  else
    seqStep (wblock (blockIndex s) b) .written seqCommit (s.setSeq .idle)

/-- The end of a command whose last action is a write sequence: `fail ERR_BUS` if the sequence failed. -/
def endSequence (r : Bool × State) : State :=
  if r.1 then r.2 else r.2.fail .bus

/-- The state after WRLARGE (R198). -/
def wrlargeState (s : State) : State :=
  if s.auto then s.startCommand.fail .cfg
  else endSequence (writeLarge s.img s.startCommand)

/-- WRLARGE (R198). -/
def execWrlarge (s : State) : Host.Outcome State Fault Refusal :=
  .next (wrlargeState s)

/-- The state after WRSMALL (R202). -/
def wrsmallState (s : State) : State :=
  if s.auto then s.startCommand.fail .cfg
  else endSequence (writeSmall s.img s.startCommand)

/-- WRSMALL (R202). -/
def execWrsmall (s : State) : Host.Outcome State Fault Refusal :=
  .next (wrsmallState s)

end Sys2Proof.Machine
end

