-- ==== Sys2Proof/Machine/AutoDetect.lean ====
section
/-! DEFINITION. The chip-variant detector and the command DETECT (spec/45_autodetect.md). -/

namespace Sys2Proof.Machine

/-- PROBE_IDX, one of the two block indices (R221). -/
def probeIndex (p : Params) : Byte :=
  if p.probeNewer then p.idx1 else p.idx0

/-- SIGNATURE: that of the parameter record, else free (R221). -/
def signature (p : Params) : Bytes6 :=
  p.signature.getD Config.signature

/-- The detection has resolved: the read-back block is kept and compared with the signature (R222). -/
def resolveDetection (d : Bytes6) (s : State) : State :=
  if d = signature s.params then
    { s with rbuf := d, addrmode := addrmodeOlder, result := true }
  else
    { s with rbuf := d, addrmode := addrmodeNewer, result := false }

/-- The detection itself, with AUTO = 1 (R222): recall, wait, read back, compare. -/
def probeChip (s : State) : State :=
  match wreg s.params.regRcl s.params.recallBit s with
  | (true, s1) => s1.fail .bus
  | (false, s1) =>
    match rblock (probeIndex s.params) (waitSettle s1) with
    | (none, s2) => s2.fail .bus
    | (some d, s2) => resolveDetection d s2

/-- The state after DETECT (R222): nothing happens unless a detection is pending. -/
def detectState (s : State) : State :=
  if s.auto then probeChip s.startCommand else s.startCommand

/-- DETECT (R222). -/
def execDetect (s : State) : Host.Outcome State Fault Refusal :=
  .next (detectState s)

end Sys2Proof.Machine
end

