-- ==== Sys2Proof/Machine/Pipeline.lean ====
section
/-! DEFINITION. The frequency-change pipeline and the commands SETFREQ, ONLINE (spec/46_pipeline.md). -/

namespace Sys2Proof.Machine

/-- The small path of SETFREQ (R232): only the fractional value is recomputed, with the committed dividers. -/
def smallPath (s : State) : State :=
  match calcImage s.params s.freq s.cdiv s.xtal with
  | .error e => s.fail e
  | .ok b => endSequence (writeSmall b { s with img := b })

/-- The commit of the smooth-tune state after all four steps of a large change (R233). -/
def commitTune (s : State) : State :=
  { s with center := s.freq, centerValid := true, cdiv := s.div }

/-- The large path of SETFREQ (R233): solve, calculate, write, commit. -/
def largePath (s : State) : State :=
  match solveDivider s.params s.freq s.grade with
  | none => s.fail .noDiv
  | some d =>
    match calcImage s.params s.freq d s.xtal with
    | .error e => { s with div := d }.fail e
    | .ok b =>
      match writeLarge b { s with div := d, img := b } with
      | (false, t) => t.fail .bus
      | (true, t) => commitTune t

/-- The state after SETFREQ (R231): refused while detection is pending, else the decision picks the path. -/
def setfreqState (s : State) : State :=
  if s.auto then s.startCommand.fail .cfg
  else if smallChange s.freq s.center s.centerValid s.ppm then
    smallPath { s.startCommand with path := true }
  else
    largePath { s.startCommand with path := false }

/-- SETFREQ (R231 to R235). -/
def execSetfreq (s : State) : Host.Outcome State Fault Refusal :=
  .next (setfreqState s)

/-- ONLINE (R236): the chip has come online, so the smooth-tune state is unset. -/
def execOnline (s : State) : Host.Outcome State Fault Refusal :=
  .next { s.startCommand with centerValid := false }

end Sys2Proof.Machine
end

