-- ==== Sys2Proof/Machine/Dispatch.lean ====
section
/-! DEFINITION. One arm per command. -/

namespace Sys2Proof.Machine

def exec (i : Instr) (s : State) : Host.Outcome State Fault Refusal :=
  match i with
  | .nop => Sys2Proof.Machine.execNop s
  | .mul => Sys2Proof.Machine.execMul s
  | .divr => Sys2Proof.Machine.execDivr s
  | .solve => Sys2Proof.Machine.execSolve s
  | .calcCmd => Sys2Proof.Machine.execCalc s
  | .decideCmd => Sys2Proof.Machine.execDecide s
  | .wrlarge => Sys2Proof.Machine.execWrlarge s
  | .wrsmall => Sys2Proof.Machine.execWrsmall s
  | .detect => Sys2Proof.Machine.execDetect s
  | .setfreq => Sys2Proof.Machine.execSetfreq s
  | .online => Sys2Proof.Machine.execOnline s

end Sys2Proof.Machine
end

