-- ==== Sys2Proof/Machine/Step.lean ====
section
/-! DEFINITION. One step of the engine: one host event, with the whole command if it starts one (spec/00_scope.md R4). -/

namespace Sys2Proof.Machine

/-- One step: take the next host event (`nextAction`); a byte written to CMD is decoded and its command runs to its end
(spec/20_memory.md R62, R76), a byte that is no command reports ERR_ILLEGAL (spec/60_exceptions.md R258), and with no event
pending nothing changes (log entry 4). -/
def step (s : State) : Host.Outcome State Fault Refusal :=
  match nextAction s with
  | .idle => .next s
  | .done t => .next t
  | .command c t =>
    match decode c with
    | .ok i => exec i t
    | .error _ => .next (illegalCommand t)

/-- The state whose next step runs the command of an instruction word: the host's write of its byte to CMD stands in front
of whatever host events are pending. Log entry 9. -/
def State.withFetchWord (s : State) (nbits w : Nat) : State :=
  withCommandByte s (commandByte nbits w)

end Sys2Proof.Machine
end

