-- ==== Sys2Proof/Safety.lean ====
section
/-! DEFINITION. The words statements about the engine use: which states are legal, what the bus traces of the transactions
look like, and the outcome tables of the write sequences and of the detection. -/

namespace Sys2Proof.Machine

/-! ### Legal states -/

/-- A divider configuration the solver can produce (spec/10_state.md R25). -/
abbrev Divider.Legal (d : Divider) : Prop :=
  (d.hs.toNat = 4 ∨ d.hs.toNat = 5 ∨ d.hs.toNat = 6 ∨ d.hs.toNat = 7 ∨ d.hs.toNat = 9 ∨ d.hs.toNat = 11) ∧
  (d.n1.toNat = 1 ∨ d.n1.toNat % 2 = 0) ∧ 1 ≤ d.n1.toNat ∧ d.n1.toNat ≤ 128 ∧
  d.n.toNat = d.hs.toNat * d.n1.toNat

/-- The invariant of spec/10_state.md R25, R26: the parameters are legal (spec/00_scope.md R8), DIV and CDIV are unset or a
solver result, and while CENTER_VALID is 1 CDIV is set and keeps the DCO at or above its minimum at CENTER. -/
abbrev State.Inv (s : State) : Prop :=
  s.params.WellFormed ∧
  (s.div = Divider.unset ∨ s.div.Legal) ∧
  (s.cdiv = Divider.unset ∨ s.cdiv.Legal) ∧
  (s.centerValid = true → s.cdiv.Legal ∧ dcoMinQ21 s.params ≤ s.cdiv.n.toNat * s.center.toNat)

/-- Every byte of the host register space reads as before, except in the listed (base, length) ranges. -/
def SameBytesExcept (s t : State) (ranges : List (Nat × Nat)) : Prop :=
  ∀ a : BitVec 7, (∀ r ∈ ranges, ¬(r.1 ≤ a.toNat ∧ a.toNat < r.1 + r.2)) → hostRead t a = hostRead s a

/-! ### The transport's answers -/

/-- The used answers agree with those supplied from outside, as far as any were supplied. -/
def Supplied {α : Type} (supplied used : List α) : Prop :=
  ∀ (k : Nat) (a b : α), supplied[k]? = some a → used[k]? = some b → a = b

/-! ### The traces of the transactions (spec/44_write_protocol.md R191 to R193) -/

/-- The trace of `wreg(reg, val)` with the answer e (R191). -/
def wregEvents (p : Params) (reg val : Byte) (e : Bool) : List BusEvent :=
  [.start p.sla .write, .send reg, .send val, .stop, .err e]

/-- The trace of `wblock(idx, B)` with the answer e (R192). -/
def wblockEvents (p : Params) (idx : Byte) (b : Bytes6) (e : Bool) : List BusEvent :=
  [.start p.sla .write, .send idx, .send b.b0, .send b.b1, .send b.b2, .send b.b3, .send b.b4, .send b.b5, .stop, .err e]

/-- The trace of the first transaction of `rblock(idx)` with the answer e (R193). -/
def indexEvents (p : Params) (idx : Byte) (e : Bool) : List BusEvent :=
  [.start p.sla .write, .send idx, .stop, .err e]

/-- The trace of the second transaction of `rblock` that received the bytes d, with the answer e (R193). -/
def readEvents (p : Params) (d : Bytes6) (e : Bool) : List BusEvent :=
  [.start p.sla .read, .recv .ack d.b0, .recv .ack d.b1, .recv .ack d.b2, .recv .ack d.b3, .recv .ack d.b4,
   .recv .nack d.b5, .stop, .err e]

/-- Nothing follows an error flag read as 1 (spec/44_write_protocol.md R194). -/
def quietAfterError : List BusEvent → Bool
  | [] => true
  | .err true :: rest => rest.isEmpty
  | _ :: rest => quietAfterError rest

/-- How many transactions a trace starts. -/
def startCount (evs : List BusEvent) : Nat :=
  evs.countP fun ev => match ev with
    | .start _ _ => true
    | _ => false

/-- How often a trace reads the error flag. -/
def errCount (evs : List BusEvent) : Nat :=
  evs.countP fun ev => match ev with
    | .err _ => true
    | _ => false

/-- How many bytes a trace moves. -/
def byteCount (evs : List BusEvent) : Nat :=
  evs.countP fun ev => match ev with
    | .send _ => true
    | .recv _ _ => true
    | _ => false

/-! ### Outcome tables -/

/-- The table of spec/44_write_protocol.md R199: the state after `write_large` of the image b from s, by the answers to the
error flag; an answer after the first 1 is not used. -/
def afterLarge (b : Bytes6) (s : State) (e1 e2 e3 e4 : Bool) : State :=
  let freeze := wregEvents s.params s.params.regFrz s.params.frzDco
  let block := wblockEvents s.params (if s.scheme then s.params.idx1 else s.params.idx0) b
  let unfreeze := wregEvents s.params s.params.regFrz 0x00
  let strobe := wregEvents s.params s.params.regNewf s.params.newfreq
  if e1 then
    { s with err := .bus, seq := .idle, errIn := s.errIn.drop 1, trace := s.trace ++ freeze true }
  else if e2 then
    { s with err := .bus, seq := .frozen, errIn := s.errIn.drop 2, trace := s.trace ++ (freeze false ++ block true) }
  else if e3 then
    { s with err := .bus, seq := .written, errIn := s.errIn.drop 3,
             trace := s.trace ++ (freeze false ++ block false ++ unfreeze true) }
  else if e4 then
    { s with err := .bus, seq := .unfrozen, errIn := s.errIn.drop 4,
             trace := s.trace ++ (freeze false ++ block false ++ unfreeze false ++ strobe true) }
  else
    { s with seq := .committed, errIn := s.errIn.drop 4,
             trace := s.trace ++ (freeze false ++ block false ++ unfreeze false ++ strobe false) }

/-- The table of spec/44_write_protocol.md R203: the state after `write_small` of the image b from s, by the answers to the
error flag. -/
def afterSmall (b : Bytes6) (s : State) (e1 e2 e3 : Bool) : State :=
  let freeze := wregEvents s.params s.params.regFrzm s.params.frzM
  let block := wblockEvents s.params (if s.scheme then s.params.idx1 else s.params.idx0) b
  let unfreeze := wregEvents s.params s.params.regFrzm 0x00
  if s.freezeM then
    if e1 then
      { s with err := .bus, seq := .idle, errIn := s.errIn.drop 1, trace := s.trace ++ freeze true }
    else if e2 then
      { s with err := .bus, seq := .frozen, errIn := s.errIn.drop 2, trace := s.trace ++ (freeze false ++ block true) }
    else if e3 then
      { s with err := .bus, seq := .written, errIn := s.errIn.drop 3,
               trace := s.trace ++ (freeze false ++ block false ++ unfreeze true) }
    else
      { s with seq := .committed, errIn := s.errIn.drop 3,
               trace := s.trace ++ (freeze false ++ block false ++ unfreeze false) }
  else
    if e1 then
      { s with err := .bus, seq := .idle, errIn := s.errIn.drop 1, trace := s.trace ++ block true }
    else
      { s with seq := .committed, errIn := s.errIn.drop 1, trace := s.trace ++ block false }

/-- The outcomes of spec/45_autodetect.md R222 with AUTO = 1: the state after the detection from s, by the answers to the
error flag and the bytes d the chip sent. -/
def afterDetect (s : State) (e1 e2 e3 : Bool) (d : Bytes6) : State :=
  let recal := wregEvents s.params s.params.regRcl s.params.recallBit
  let index := indexEvents s.params (if s.params.probeNewer then s.params.idx1 else s.params.idx0)
  let read := readEvents s.params d
  if e1 then
    { s with err := .bus, errIn := s.errIn.drop 1, trace := s.trace ++ recal true }
  else if e2 then
    { s with err := .bus, errIn := s.errIn.drop 2, trace := s.trace ++ (recal false ++ [.settle] ++ index true) }
  else if e3 then
    { s with err := .bus, errIn := s.errIn.drop 3, rxIn := s.rxIn.drop 6,
             trace := s.trace ++ (recal false ++ [.settle] ++ index false ++ read true) }
  else
    { s with rbuf := d, addrmode := (if d = signature s.params then 0b000 else 0b011),
             result := decide (d = signature s.params), errIn := s.errIn.drop 3, rxIn := s.rxIn.drop 6,
             trace := s.trace ++ (recal false ++ [.settle] ++ index false ++ read false) }

end Sys2Proof.Machine
end

