-- ==== Sys2Proof/Certificates/Slice0/Obligations.lean ====
section
/-! DEFINITION. The statements for the provers. Each docstring names the rule or section of spec/ it formalises. -/

open Sys2Proof Sys2Proof.Machine

/-! ### Encoding and the step -/

/-- The opcode map (spec/30_encoding.md section 1, its R91, the spec's decision D2): each of the eleven bytes, written out
bit by bit, decodes to its command, and a byte of the table's own list that is next to a command does not decode. -/
def Obligations.OpcodeMapDecodes : Prop :=
  decode 0b00000000 = .ok .nop ∧ decode 0b00000001 = .ok .mul ∧ decode 0b00000010 = .ok .divr ∧
  decode 0b00010000 = .ok .solve ∧ decode 0b00010001 = .ok .calcCmd ∧ decode 0b00010010 = .ok .decideCmd ∧
  decode 0b00100000 = .ok .wrlarge ∧ decode 0b00100001 = .ok .wrsmall ∧ decode 0b00100010 = .ok .detect ∧
  decode 0b00110000 = .ok .setfreq ∧ decode 0b00110001 = .ok .online ∧
  decode 0b00000011 = .error (.illegalCommand 0b00000011) ∧
  decode 0b01111111 = .error (.illegalCommand 0b01111111)

/-- Decoder and encoder agree in both directions: a byte decodes to a command exactly when it is that command's byte, and
every other byte is rejected by name (spec/30_encoding.md section 1, R92 and R103, the spec's decisions D2 and D26). -/
def Obligations.DecodeExactlyTheEncodings : Prop :=
  (∀ (c : Byte) (i : Instr), decode c = .ok i ↔ c = encode i) ∧
  (∀ c : Byte, (∀ i : Instr, c ≠ encode i) → decode c = .error (.illegalCommand c))

/-- A step runs the decoded command: a host write to CMD (address 0x3F) of a byte that decodes to a well-formed command i is
taken from the pending host events and the step is `exec i` in the state without it; `withFetchWord` places exactly such a
write. How host events are pending in the state is the model's own choice, log entries 4 and 9. -/
def Obligations.StepRunsDecodedCommand : Prop :=
  (∀ (s : State) (c : Byte) (rest : List HostEvent) (i : Instr),
    s.hostIn = .wr 0x3F c :: rest → decode c = .ok i → i.wellFormed = true →
      step s = exec i { s with hostIn := rest }) ∧
  (∀ (s : State) (w : Nat) (i : Instr), decodeTableWord 8 w = some i → step (s.withFetchWord 8 w) = exec i s)

/-- A byte that is no command: STATUS.ERR becomes ERR_ILLEGAL and nothing else changes but that the write is taken
(spec/60_exceptions.md section 2, R258, the spec's decision D26). -/
def Obligations.IllegalByteOnlySetsErr : Prop :=
  ∀ (s : State) (c : Byte) (rest : List HostEvent),
    s.hostIn = .wr 0x3F c :: rest →
    c ∉ ([0x00, 0x01, 0x02, 0x10, 0x11, 0x12, 0x20, 0x21, 0x22, 0x30, 0x31] : List Byte) →
    step s = .next { s with hostIn := rest, err := .illegal } ∧
    statusByte { s with hostIn := rest, err := .illegal } = 5

/-- Every step answers a next state: the engine has no fault, no stuck and no halted state (spec/60_exceptions.md section
2, R265 and R266), and with no host event pending it stays as it is (the model's choice, log entry 4). -/
def Obligations.StepAlwaysAnswers : Prop :=
  (∀ s : State, ∃ t : State, step s = .next t) ∧ (∀ s : State, s.hostIn = [] → step s = .next s)

/-! ### The host port -/

/-- A host read returns the byte of the register map and changes no register (spec/20_memory.md section 1, R61, the spec's
decisions D7 and D9). That the byte goes to the list of bytes returned is the model's choice, log entry 5. -/
def Obligations.HostReadChangesNothing : Prop :=
  ∀ (s : State) (a : BitVec 7) (rest : List HostEvent), s.hostIn = .rd a :: rest →
    step s = .next { s with hostIn := rest, hostOut := s.hostOut ++ [hostRead s a] }

/-- The register map and its byte order (spec/20_memory.md R64 to R66, the spec's decisions D7 to D9): every register at its
address, multi-byte registers least significant byte first, arrays by index, narrow registers and codes in the low bits,
CMD and every reserved address 0. -/
def Obligations.RegisterMapIsLittleEndian : Prop :=
  ∀ s : State,
    let m := fun a : Nat => (hostRead s (BitVec.ofNat 7 a)).toNat
    let word := fun (a n : Nat) => ((List.range n).map fun k => m (a + k) * 256 ^ k).sum
    word 0x00 4 = s.freq.toNat ∧ word 0x04 4 = s.xtal.toNat ∧ word 0x08 2 = s.ppm.toNat ∧
    m 0x0A = s.grade.toNat ∧ m 0x0B = s.addrmode.toNat ∧
    word 0x0C 2 = s.ma.toNat ∧ word 0x10 4 = s.mb.toNat ∧ word 0x14 4 = s.dvs.toNat ∧
    word 0x18 6 = s.prod.toNat ∧ word 0x20 5 = s.quot.toNat ∧
    m 0x28 = s.div.hs.toNat ∧ m 0x29 = s.div.n1.toNat ∧ word 0x2A 2 = s.div.n.toNat ∧
    m 0x2C = s.cdiv.hs.toNat ∧ m 0x2D = s.cdiv.n1.toNat ∧ word 0x2E 2 = s.cdiv.n.toNat ∧
    [m 0x30, m 0x31, m 0x32, m 0x33, m 0x34, m 0x35] = s.img.toList.map BitVec.toNat ∧
    word 0x38 4 = s.center.toNat ∧
    m 0x3C = (match s.err with | .ok => 0 | .noDiv => 1 | .dco => 2 | .bus => 3 | .cfg => 4 | .illegal => 5) ∧
    m 0x3D = s.centerValid.toNat + 2 * s.result.toNat + 4 * s.path.toNat + 8 * s.qovf.toNat ∧
    m 0x3E = (match s.seq with | .idle => 0 | .frozen => 1 | .written => 2 | .unfrozen => 3 | .committed => 4) ∧
    m 0x3F = 0 ∧
    [m 0x40, m 0x41, m 0x42, m 0x43, m 0x44, m 0x45] = s.rbuf.toList.map BitVec.toNat ∧
    (∀ a ∈ [0x0E, 0x0F, 0x1E, 0x1F, 0x25, 0x26, 0x27, 0x36, 0x37], m a = 0) ∧
    (∀ a, 0x46 ≤ a → a ≤ 0x7F → m a = 0)

/-- A host write at any address but CMD (spec/20_memory.md section 1, R62, the spec's decisions D7 and D9): a byte of a
read-write register becomes the byte written (GRADE its low two bits, ADDRMODE its low three), every other byte of the host
space reads as before, a write at a read-only or reserved address changes nothing, and in every case no command starts:
no bus event, no output, no other model field changes. -/
def Obligations.HostWriteThenReadBack : Prop :=
  ∀ (s : State) (a : BitVec 7) (v : Byte) (rest : List HostEvent),
    s.hostIn = .wr a v :: rest → a ≠ 0x3F →
    ∃ t : State, step s = .next t ∧
      (∀ b : BitVec 7, b ≠ a → hostRead t b = hostRead s b) ∧
      ((a.toNat ≤ 0x09 ∨ (0x0C ≤ a.toNat ∧ a.toNat ≤ 0x0D) ∨ (0x10 ≤ a.toNat ∧ a.toNat ≤ 0x1D) ∨
        (0x30 ≤ a.toNat ∧ a.toNat ≤ 0x35)) → hostRead t a = v) ∧
      (a.toNat = 0x0A → (hostRead t a).toNat = v.toNat % 4) ∧
      (a.toNat = 0x0B → (hostRead t a).toNat = v.toNat % 8) ∧
      ((0x0E ≤ a.toNat ∧ a.toNat ≤ 0x0F) ∨ (0x1E ≤ a.toNat ∧ a.toNat ≤ 0x2F) ∨ 0x36 ≤ a.toNat →
        t = { s with hostIn := rest }) ∧
      t.hostIn = rest ∧ t.hostOut = s.hostOut ∧ t.errIn = s.errIn ∧ t.rxIn = s.rxIn ∧ t.trace = s.trace ∧
      t.params = s.params

/-! ### Reset -/

/-- After reset every byte of the host space reads 0, so every register holds the reset value of the table of
spec/10_state.md R20 (R55, spec/70_reset_and_hazards.md R280, the spec's decision D10); in particular the smooth-tune
state is unset. -/
def Obligations.ResetReadsZeroEverywhere : Prop :=
  (∀ a : BitVec 7, hostRead State.reset a = 0) ∧ State.reset.centerValid = false ∧ State.reset.err = .ok ∧
  State.reset.seq = .idle ∧ State.reset.div = Divider.unset ∧ State.reset.cdiv = Divider.unset ∧
  State.reset.trace = []

/-- The reset event puts every register to its reset value and issues no bus event (spec/70_reset_and_hazards.md section 1,
R280, the spec's decision D10). That it arrives as a host event, and that the parameters and the pending inputs stay, is
the model's choice, log entry 8. -/
def Obligations.ResetEventClearsRegisters : Prop :=
  ∀ (s : State) (rest : List HostEvent), s.hostIn = .reset :: rest →
    ∃ t : State, step s = .next t ∧ (∀ a : BitVec 7, hostRead t a = 0) ∧ t.trace = s.trace ∧ t.hostOut = s.hostOut ∧
      t = { State.reset with
              params := s.params, hostIn := rest, hostOut := s.hostOut, errIn := s.errIn, rxIn := s.rxIn,
              trace := s.trace }

/-! ### NOP, MUL, DIVR -/

/-- NOP clears STATUS.ERR and does nothing else (spec/40_fixed_point.md section 4, R129, the spec's decision D2). -/
def Obligations.NopClearsErrOnly : Prop :=
  decode 0x00 = .ok .nop ∧
  ∀ s : State, ∃ t : State, exec .nop s = .next t ∧ t = { s with err := .ok } ∧ SameBytesExcept s t [(0x3C, 1)]

/-- `mul16x32` is the exact product, which fits 48 bits (spec/40_fixed_point.md R122). -/
def Obligations.ProductIsExact : Prop :=
  ∀ (a : BitVec 16) (b : BitVec 32),
    (mul16x32 a b).toNat = a.toNat * b.toNat ∧ a.toNat * b.toNat ≤ (2 ^ 16 - 1) * (2 ^ 32 - 1) ∧
    (2 ^ 16 - 1) * (2 ^ 32 - 1) < 2 ^ 48

/-- MUL writes the exact product of MA and MB to PROD, clears STATUS.ERR and changes nothing else
(spec/40_fixed_point.md section 2, R124, whose command code is the spec's decision D2). -/
def Obligations.MulWritesExactProduct : Prop :=
  decode 0x01 = .ok .mul ∧
  ∀ s : State, ∃ t : State, exec .mul s = .next t ∧
    t.prod.toNat = s.ma.toNat * s.mb.toNat ∧
    t = { s with err := .ok, prod := t.prod } ∧
    SameBytesExcept s t [(0x18, 6), (0x3C, 1)]

/-- The 48-bit shift-and-add multiplier of the document gives the same product as `mul16x32`, and after k steps holds
`a × (b >> (32 - k))`, so it never overflows (spec/40_fixed_point.md section 2, R123, an inference the spec marks as its
own). -/
def Obligations.ShiftAddMultiplierAgrees : Prop :=
  ∀ (a : BitVec 16) (b : BitVec 32),
    mulSerial a b 32 = mul16x32 a b ∧
    ∀ k : Nat, k ≤ 32 → (mulSerial a b k).toNat = a.toNat * (b.toNat / 2 ^ (32 - k))

/-- `divround` is the exact quotient `p × 2^S / x` rounded to nearest, an exact half up (spec/40_fixed_point.md section 3,
R125 and R128 (1), (3), the spec's decision D14): it equals `floor((2D + x) / (2x))`, it is within one half of the exact
quotient, and with S at least 31 an exact half does not occur. -/
def Obligations.DivroundRoundsToNearest : Prop :=
  ∀ (p : Params) (v : BitVec 48) (x : BitVec 32), x ≠ 0 →
    divround p v x = (2 * (v.toNat * 2 ^ (p.rfreqFrac + 3)) + x.toNat) / (2 * x.toNat) ∧
    2 * (divround p v x * x.toNat) ≤ 2 * (v.toNat * 2 ^ (p.rfreqFrac + 3)) + x.toNat ∧
    2 * (v.toNat * 2 ^ (p.rfreqFrac + 3)) < 2 * (divround p v x * x.toNat) + x.toNat ∧
    (28 ≤ p.rfreqFrac → 2 * (v.toNat * 2 ^ (p.rfreqFrac + 3) % x.toNat) ≠ x.toNat)

/-- The restoring bit-serial division of the document, with a 33-bit remainder and its last bit added back, computes
`divround` for every divisor that is not 0 (spec/40_fixed_point.md section 3, R128 (2), an inference the spec marks as its
own). -/
def Obligations.RestoringDividerComputesDivround : Prop :=
  ∀ (p : Params) (v : BitVec 48) (x : BitVec 32), x ≠ 0 →
    divroundSerial p v x = divround p v x ∧
    ∀ k : Nat, k ≤ 48 + divShift p + 1 →
      (divSerial (2 * dividend p v) x (48 + divShift p + 1) k).rem.toNat < x.toNat

/-- DIVR (spec/40_fixed_point.md section 3, R127, the spec's decisions D15 and D16): with DVS = 0 it sets ERR_CFG and leaves
QUOT and QOVF alone; else QUOT takes the low 40 bits of the rounded quotient, QOVF says whether it did not fit, STATUS.ERR
is OK, and nothing else changes. -/
def Obligations.DivrDividesOrReportsCfg : Prop :=
  decode 0x02 = .ok .divr ∧
  (∀ s : State, s.dvs = 0 → exec .divr s = .next { s with err := .cfg }) ∧
  (∀ s : State, s.dvs ≠ 0 → ∃ t : State, exec .divr s = .next t ∧
    (let r := (2 * (s.prod.toNat * 2 ^ (s.params.rfreqFrac + 3)) + s.dvs.toNat) / (2 * s.dvs.toNat)
     t.quot.toNat = r % 2 ^ 40 ∧ (t.qovf = true ↔ 2 ^ 40 ≤ r)) ∧
    t = { s with err := .ok, quot := t.quot, qovf := t.qovf } ∧
    SameBytesExcept s t [(0x20, 5), (0x3C, 2)])

/-! ### SOLVE -/

/-- SOLVE writes the result of the solver to DIV, or reports ERR_NODIV and leaves DIV as it was; nothing else changes
(spec/41_divider_solver.md R146). -/
def Obligations.SolveWritesDividerOrReportsNoDiv : Prop :=
  decode 0x10 = .ok .solve ∧
  ∀ s : State, ∃ t : State, exec .solve s = .next t ∧
    (∀ d : Divider, solveDivider s.params s.freq s.grade = some d →
      t = { s with err := .ok, div := d } ∧ SameBytesExcept s t [(0x28, 4), (0x3C, 1)]) ∧
    (solveDivider s.params s.freq s.grade = none →
      t = { s with err := .noDiv } ∧ SameBytesExcept s t [(0x3C, 1)])

/-- Every result of the solver is legal, is not forbidden for the grade and keeps the DCO at or above its minimum
(spec/41_divider_solver.md section 2, R145 (1), (2), (5), inferences the spec marks as its own, for a legal DCO_MIN_MHZ). -/
def Obligations.SolverResultIsLegal : Prop :=
  ∀ (p : Params) (f : BitVec 32) (g : BitVec 2) (d : Divider),
    1 ≤ p.dcoMinMHz → solveDivider p f g = some d →
    d.Legal ∧ forbidden p g d.n1.toNat d.hs.toNat = false ∧
    p.dcoMinMHz * 2 ^ 21 ≤ d.n.toNat * f.toNat

/-- The candidates the solver ranges over: for each HS_DIV value, the least N1 that reaches the minimum DCO frequency,
rounded up to an even number unless it is 1 (spec/41_divider_solver.md section 2, R141 and R143, the spec's decision
D11 and an inference it marks as its own). -/
def Obligations.CandidateIsLeastEvenDivider : Prop :=
  ∀ (p : Params) (f : BitVec 32) (hs : Nat), f ≠ 0 → 1 ≤ p.dcoMinMHz → hs ∈ ([11, 9, 7, 6, 5, 4] : List Nat) →
    let n1 := candidateN1 (n0 p f) hs
    p.dcoMinMHz * 2 ^ 21 ≤ f.toNat * hs * n1 ∧ (n1 = 1 ∨ n1 % 2 = 0) ∧
    (∀ m : Nat, p.dcoMinMHz * 2 ^ 21 ≤ f.toNat * hs * m → (m = 1 ∨ m % 2 = 0) → n1 ≤ m)

/-- The solver as spec/41_divider_solver.md R144 gives it: for a frequency other than 0 it returns the candidate of one of the
six HS_DIV values that is not rejected (N1 above 128) and not forbidden, whose N is the least and whose HS_DIV is the
largest among those of equal N; and it returns nothing else. -/
def Obligations.SolverPicksFirstLeastDivision : Prop :=
  ∀ (p : Params) (f : BitVec 32) (g : BitVec 2) (d : Divider),
    let n1 := fun hs : Nat => candidateN1 (n0 p f) hs
    let valid := fun hs : Nat => n1 hs ≤ 128 ∧ forbidden p g (n1 hs) hs = false
    solveDivider p f g = some d ↔
      f ≠ 0 ∧ ∃ hs ∈ ([11, 9, 7, 6, 5, 4] : List Nat),
        valid hs ∧ d.hs.toNat = hs ∧ d.n1.toNat = n1 hs ∧ d.n.toNat = hs * n1 hs ∧
        ∀ k ∈ ([11, 9, 7, 6, 5, 4] : List Nat), valid k →
          hs * n1 hs ≤ k * n1 k ∧ (hs * n1 hs = k * n1 k → k ≤ hs)

/-- Grade A solves exactly the frequencies that the largest total division 1408 can lift to the DCO minimum, and no grade
solves another (spec/41_divider_solver.md section 2, R147, an inference the spec marks as its own). -/
def Obligations.GradeASolvesExactlyReachable : Prop :=
  ∀ (p : Params) (f : BitVec 32),
    ((solveDivider p f 0).isSome = true ↔ f ≠ 0 ∧ p.dcoMinMHz * 2 ^ 21 ≤ 1408 * f.toNat) ∧
    (∀ g : BitVec 2, (solveDivider p f g).isSome = true → (solveDivider p f 0).isSome = true)

/-- ERR_NODIV is raised by SOLVE and by the large path of SETFREQ exactly when the frequency is 0 or every HS_DIV has its N1
above 128 or its pair forbidden; nothing but STATUS.ERR (and PATH, in SETFREQ) has changed and no bus event was issued
(spec/60_exceptions.md R254). -/
def Obligations.NoDivExactlyWhenExhausted : Prop :=
  ∀ s : State,
    let exhausted := s.freq = 0 ∨ ∀ hs ∈ ([11, 9, 7, 6, 5, 4] : List Nat),
      128 < candidateN1 (n0 s.params s.freq) hs ∨
      forbidden s.params s.grade (candidateN1 (n0 s.params s.freq) hs) hs = true
    (solveDivider s.params s.freq s.grade = none ↔ exhausted) ∧
    (∃ t : State, exec .solve s = .next t ∧ (t.err = .noDiv ↔ exhausted) ∧
      (t.err = .noDiv → t = { s with err := .noDiv })) ∧
    (s.auto = false → smallChange s.freq s.center s.centerValid s.ppm = false →
      ∃ t : State, exec .setfreq s = .next t ∧ (t.err = .noDiv ↔ exhausted) ∧
        (t.err = .noDiv → t = { s with err := .noDiv, path := false }))

/-! ### The register image and CALC -/

/-- The layout of the register image, field by field (spec/30_encoding.md R97): with h = HS_DIV - 4 and m = N1 - 1, byte 0 is
h above the top five bits of m, byte 1 the low two bits of m above R[37:32], then R most significant byte first; as one
number sent first byte first it is h, m, R in 3 + 7 + 38 bits. -/
def Obligations.ImageLayoutIsBitExact : Prop :=
  ∀ hs n1 r : Nat, 4 ≤ hs → hs ≤ 11 → 1 ≤ n1 → n1 ≤ 128 → r < 2 ^ 38 →
    let b := pack hs n1 r
    b.b0.toNat = (hs - 4) * 32 + (n1 - 1) / 4 ∧
    b.b1.toNat = (n1 - 1) % 4 * 64 + r / 2 ^ 32 ∧
    b.b2.toNat = r / 2 ^ 24 % 256 ∧ b.b3.toNat = r / 2 ^ 16 % 256 ∧
    b.b4.toNat = r / 2 ^ 8 % 256 ∧ b.b5.toNat = r % 256 ∧
    (b.toList.foldl (fun acc x => acc * 256 + x.toNat) 0) = (hs - 4) * 2 ^ 45 + (n1 - 1) * 2 ^ 38 + r

/-- Decoding an encoded image gives the triple back, and encoding a decoded image gives the six bytes back
(spec/30_encoding.md section 3, R98, an inference the spec marks as its own). -/
def Obligations.PackUnpackRoundTrip : Prop :=
  (∀ hs n1 r : Nat, 4 ≤ hs → hs ≤ 11 → 1 ≤ n1 → n1 ≤ 128 → r < 2 ^ 38 →
    unpack (pack hs n1 r) = ⟨hs, n1, r⟩) ∧
  (∀ b : Bytes6, pack (unpack b).hs (unpack b).n1 (unpack b).r = b)

/-- The range check passes exactly when the DCO frequency is below `(DCO_MAX8 + 1) × 8` MHz, whatever the crystal, and a
product that fails it never gives an image (spec/42_tuning_word.md section 2, R163 and R164, the spec's decision D13). -/
def Obligations.RangeCheckIsExact : Prop :=
  ∀ (p : Params) (f x : BitVec 32) (d : Divider),
    (calcImage p f d x = .error .dco ↔ (p.dcoMax8.toNat + 1) * 2 ^ 24 ≤ d.n.toNat * f.toNat) ∧
    (∀ b : Bytes6, calcImage p f d x = .ok b → d.n.toNat * f.toNat < (p.dcoMax8.toNat + 1) * 2 ^ 24)

/-- Accuracy: an image computed for a divider in range decodes to that divider and to a fractional value within one half of
`n × F × 2^(RFREQ_FRAC+3) / X` (spec/42_tuning_word.md section 2, R168, an inference the spec marks as its own). -/
def Obligations.TuningWordIsAccurate : Prop :=
  ∀ (p : Params) (f x : BitVec 32) (d : Divider) (b : Bytes6),
    4 ≤ d.hs.toNat → d.hs.toNat ≤ 11 → 1 ≤ d.n1.toNat → d.n1.toNat ≤ 128 →
    calcImage p f d x = .ok b →
    (unpack b).hs = d.hs.toNat ∧ (unpack b).n1 = d.n1.toNat ∧ (unpack b).r < 2 ^ 38 ∧
    (let exact2 := 2 * (d.n.toNat * f.toNat * 2 ^ (p.rfreqFrac + 3))
     2 * ((unpack b).r * x.toNat) ≤ exact2 + x.toNat ∧ exact2 ≤ 2 * ((unpack b).r * x.toNat) + x.toNat)

/-- CALC, in the order of its tests (spec/42_tuning_word.md sections 2 and 3, R166 and R167, the spec's decisions D13, D15
and D28): DIV unset gives ERR_CFG, then the range check gives ERR_DCO, then XTAL = 0 and a quotient of 2^38 or more give
ERR_CFG, each leaving IMG alone; else IMG is the packed image. Nothing else changes. -/
def Obligations.CalcComputesImageOrReportsError : Prop :=
  decode 0x11 = .ok .calcCmd ∧
  ∀ s : State, ∃ t : State, exec .calcCmd s = .next t ∧
    (let n := s.div.n.toNat * s.freq.toNat
     let r := (2 * (n * 2 ^ (s.params.rfreqFrac + 3)) + s.xtal.toNat) / (2 * s.xtal.toNat)
     (s.div.hs = 0 → t = { s with err := .cfg }) ∧
     (s.div.hs ≠ 0 → (s.params.dcoMax8.toNat + 1) * 2 ^ 24 ≤ n → t = { s with err := .dco }) ∧
     (s.div.hs ≠ 0 → n < (s.params.dcoMax8.toNat + 1) * 2 ^ 24 → s.xtal = 0 → t = { s with err := .cfg }) ∧
     (s.div.hs ≠ 0 → n < (s.params.dcoMax8.toNat + 1) * 2 ^ 24 → s.xtal ≠ 0 → 2 ^ 38 ≤ r →
       t = { s with err := .cfg }) ∧
     (s.div.hs ≠ 0 → n < (s.params.dcoMax8.toNat + 1) * 2 ^ 24 → s.xtal ≠ 0 → r < 2 ^ 38 →
       t = { s with err := .ok, img := pack s.div.hs.toNat s.div.n1.toNat r })) ∧
    SameBytesExcept s t [(0x30, 6), (0x3C, 1)]

/-- When CALC completes: DIV legal, the DCO in range, a crystal and a quotient that fits; then IMG decodes to DIV and the
rounded quotient (spec/42_tuning_word.md section 3, R166). -/
def Obligations.CalcCompletes : Prop :=
  ∀ s : State, s.div.Legal → s.xtal ≠ 0 →
    s.div.n.toNat * s.freq.toNat < (s.params.dcoMax8.toNat + 1) * 2 ^ 24 →
    (2 * (s.div.n.toNat * s.freq.toNat * 2 ^ (s.params.rfreqFrac + 3)) + s.xtal.toNat) / (2 * s.xtal.toNat) < 2 ^ 38 →
    ∃ b : Bytes6, exec .calcCmd s = .next { s with err := .ok, img := b } ∧
      unpack b = ⟨s.div.hs.toNat, s.div.n1.toNat,
        (2 * (s.div.n.toNat * s.freq.toNat * 2 ^ (s.params.rfreqFrac + 3)) + s.xtal.toNat) / (2 * s.xtal.toNat)⟩

/-! ### DECIDE -/

/-- DECIDE writes the smooth-tune decision to FLAGS.RESULT, clears STATUS.ERR and changes nothing else
(spec/43_smooth_tune.md R181 and R184): small if and only if PPM is not 0, the center is set and
`(|FREQ - CENTER| × 15) >> 5` is at most the integer MHz of CENTER times PPM. -/
def Obligations.DecideWritesSmoothTuneDecision : Prop :=
  decode 0x12 = .ok .decideCmd ∧
  ∀ s : State, ∃ t : State, exec .decideCmd s = .next t ∧
    (t.result = true ↔ s.ppm ≠ 0 ∧ s.centerValid = true ∧
      ((s.freq.toNat : Int) - s.center.toNat).natAbs * 15 / 32 ≤ s.center.toNat / 2 ^ 21 * s.ppm.toNat) ∧
    t = { s with err := .ok, result := t.result } ∧
    SameBytesExcept s t [(0x3C, 2)]

/-- Properties of the decision (spec/43_smooth_tune.md section 2, R183, inferences the spec marks as its own): symmetric in
the sign of the difference, monotone, true at the center, equal to the test `delta × 15 <= 32 × thr + 31`, and with a
center below 1 MHz true only for a difference of at most 2. -/
def Obligations.SmoothTuneDecisionProperties : Prop :=
  ∀ (c : BitVec 32) (ppm : BitVec 16),
    (∀ (f : BitVec 32) (v : Bool), smallChange f c v 0 = false) ∧
    (∀ f : BitVec 32, smallChange f c false ppm = false) ∧
    (∀ d : Nat, c.toNat + d < 2 ^ 32 → d ≤ c.toNat →
      smallChange (BitVec.ofNat 32 (c.toNat + d)) c true ppm = smallChange (BitVec.ofNat 32 (c.toNat - d)) c true ppm) ∧
    (∀ d e : Nat, c.toNat + d < 2 ^ 32 → e ≤ d →
      smallChange (BitVec.ofNat 32 (c.toNat + d)) c true ppm = true →
      smallChange (BitVec.ofNat 32 (c.toNat + e)) c true ppm = true) ∧
    (ppm ≠ 0 → smallChange c c true ppm = true) ∧
    (∀ f : BitVec 32, ppm ≠ 0 → (smallChange f c true ppm = true ↔
      absdiff f c * 15 ≤ 32 * (c.toNat / 2 ^ 21 * ppm.toNat) + 31)) ∧
    (∀ f : BitVec 32, ppm ≠ 0 → c.toNat < 2 ^ 21 → (smallChange f c true ppm = true ↔ absdiff f c ≤ 2))

/-! ### The write commands -/

/-- WRLARGE (spec/44_write_protocol.md R198, with the sequence of R197): while AUTO is 1 it reports ERR_CFG and nothing else
changes; otherwise, for whatever the transport answers, the outcome is the row of the table of R199 that the answers pick:
freeze, block write, unfreeze, strobe up to the first answer 1, SEQ naming the last good step, ERR_BUS on a failure. -/
def Obligations.WrlargeFollowsOutcomeTable : Prop :=
  decode 0x20 = .ok .wrlarge ∧
  (∀ s : State, s.auto = true → exec .wrlarge s = .next { s with err := .cfg }) ∧
  (∀ s : State, s.auto = false → ∃ e1 e2 e3 e4 : Bool, Supplied s.errIn [e1, e2, e3, e4] ∧
    exec .wrlarge s = .next (afterLarge s.img { s with err := .ok } e1 e2 e3 e4))

/-- When WRLARGE completes: the addressing is resolved and the transport answers no error four times. The four transactions
go out in order, all six image bytes in one of them, and SEQ is COMMITTED (spec/44_write_protocol.md section 3). -/
def Obligations.WrlargeCommitsWithoutBusErrors : Prop :=
  ∀ (s : State) (rest : List Bool), s.auto = false → s.errIn = false :: false :: false :: false :: rest →
    ∃ t : State, exec .wrlarge s = .next t ∧
      t = { s with err := .ok, seq := .committed, errIn := rest, trace := t.trace } ∧
      t.trace = s.trace ++
        ([.start s.params.sla .write, .send s.params.regFrz, .send s.params.frzDco, .stop, .err false,
         .start s.params.sla .write, .send (if s.addrmode.getLsbD 0 then s.params.idx1 else s.params.idx0),
           .send s.img.b0, .send s.img.b1, .send s.img.b2, .send s.img.b3, .send s.img.b4, .send s.img.b5,
           .stop, .err false,
         .start s.params.sla .write, .send s.params.regFrz, .send 0x00, .stop, .err false,
         .start s.params.sla .write, .send s.params.regNewf, .send s.params.newfreq, .stop, .err false] : List BusEvent) ∧
      SameBytesExcept s t [(0x3C, 1), (0x3E, 1)]

/-- WRSMALL (spec/44_write_protocol.md R202, with the sequence of R201): while AUTO is 1 it reports ERR_CFG and nothing else
changes; otherwise, for whatever the transport answers, the outcome is the row of the table of R203 that FREEZE_M and the
answers pick. -/
def Obligations.WrsmallFollowsOutcomeTable : Prop :=
  decode 0x21 = .ok .wrsmall ∧
  (∀ s : State, s.auto = true → exec .wrsmall s = .next { s with err := .cfg }) ∧
  (∀ s : State, s.auto = false → ∃ e1 e2 e3 : Bool, Supplied s.errIn [e1, e2, e3] ∧
    exec .wrsmall s = .next (afterSmall s.img { s with err := .ok } e1 e2 e3))

/-- When WRSMALL completes: the addressing is resolved and the transport answers no error to each of its transactions, one
without FREEZE_M and three with it; SEQ is COMMITTED and no strobe goes out (spec/44_write_protocol.md section 4). -/
def Obligations.WrsmallCommitsWithoutBusErrors : Prop :=
  (∀ (s : State) (rest : List Bool), s.auto = false → s.addrmode.getLsbD 1 = false → s.errIn = false :: rest →
    ∃ t : State, exec .wrsmall s = .next t ∧
      t = { s with err := .ok, seq := .committed, errIn := rest, trace := t.trace } ∧
      t.trace = s.trace ++
        ([.start s.params.sla .write, .send (if s.addrmode.getLsbD 0 then s.params.idx1 else s.params.idx0),
           .send s.img.b0, .send s.img.b1, .send s.img.b2, .send s.img.b3, .send s.img.b4, .send s.img.b5,
           .stop, .err false] : List BusEvent) ∧
      SameBytesExcept s t [(0x3C, 1), (0x3E, 1)]) ∧
  (∀ (s : State) (rest : List Bool), s.auto = false → s.addrmode.getLsbD 1 = true →
    s.errIn = false :: false :: false :: rest →
    ∃ t : State, exec .wrsmall s = .next t ∧
      t = { s with err := .ok, seq := .committed, errIn := rest, trace := t.trace } ∧
      t.trace = s.trace ++
        ([.start s.params.sla .write, .send s.params.regFrzm, .send s.params.frzM, .stop, .err false,
         .start s.params.sla .write, .send (if s.addrmode.getLsbD 0 then s.params.idx1 else s.params.idx0),
           .send s.img.b0, .send s.img.b1, .send s.img.b2, .send s.img.b3, .send s.img.b4, .send s.img.b5,
           .stop, .err false,
         .start s.params.sla .write, .send s.params.regFrzm, .send 0x00, .stop, .err false] : List BusEvent) ∧
      SameBytesExcept s t [(0x3C, 1), (0x3E, 1)])

/-! ### DETECT -/

/-- DETECT (spec/45_autodetect.md section 3, R222, the spec's decision D22): with AUTO 0 it only clears STATUS.ERR; with AUTO 1,
for whatever the transport answers and the chip sends, the outcome is that of the pseudocode: recall, wait, index write,
six-byte read, and then the comparison, each failure ending it with ERR_BUS and AUTO still pending. -/
def Obligations.DetectFollowsProbeOutcomes : Prop :=
  decode 0x22 = .ok .detect ∧
  (∀ s : State, s.auto = false → exec .detect s = .next { s with err := .ok }) ∧
  (∀ s : State, s.auto = true → ∃ (e1 e2 e3 : Bool) (d : Bytes6),
    Supplied s.errIn [e1, e2, e3] ∧ Supplied s.rxIn d.toList ∧
    exec .detect s = .next (afterDetect { s with err := .ok } e1 e2 e3 d))

/-- When DETECT resolves the addressing: AUTO is 1, no error three times, six bytes received. A match with the signature
selects ADDRMODE 0 and RESULT 1, any other block ADDRMODE 3 and RESULT 0; RBUF keeps the block; SEQ, IMG, DIV, CDIV, CENTER
and CENTER_VALID stay (spec/45_autodetect.md section 3, R222, the spec's decision D22). -/
def Obligations.DetectResolvesAddressing : Prop :=
  (∀ (p : Params) (sig : Bytes6), p.signature = some sig → signature p = sig) ∧
  ∀ (s : State) (d : Bytes6) (errs : List Bool) (rx : List Byte),
    s.auto = true → s.errIn = false :: false :: false :: errs →
    s.rxIn = d.toList ++ rx →
    ∃ t : State, exec .detect s = .next t ∧
      t = { s with err := .ok, rbuf := d, addrmode := (if d = signature s.params then 0 else 3),
                   result := decide (d = signature s.params), errIn := errs, rxIn := rx, trace := t.trace } ∧
      t.trace = s.trace ++
        ([.start s.params.sla .write, .send s.params.regRcl, .send s.params.recallBit, .stop, .err false,
         .settle,
         .start s.params.sla .write, .send (if s.params.probeNewer then s.params.idx1 else s.params.idx0), .stop,
           .err false,
         .start s.params.sla .read, .recv .ack d.b0, .recv .ack d.b1, .recv .ack d.b2, .recv .ack d.b3,
           .recv .ack d.b4, .recv .nack d.b5, .stop, .err false] : List BusEvent) ∧
      SameBytesExcept s t [(0x0B, 1), (0x3C, 2), (0x40, 6)]

/-! ### SETFREQ and ONLINE -/

/-- While detection is pending SETFREQ, WRLARGE and WRSMALL report ERR_CFG and change nothing else
(spec/44_write_protocol.md section 1, R195, the spec's decision D23). -/
def Obligations.PendingDetectionRefusesWrites : Prop :=
  ∀ s : State, s.addrmode.getLsbD 2 = true → ∀ i ∈ ([.setfreq, .wrlarge, .wrsmall] : List Instr),
    exec i s = .next { s with err := .cfg }

/-- The large path of SETFREQ, row by row (spec/46_pipeline.md sections 1 and 2, R231, R233, R235, the spec's decisions D19
and D24): solver fails, calculator fails, bus fails, success; the smooth-tune state is written only in the last. -/
def Obligations.SetfreqLargePathOutcomes : Prop :=
  decode 0x30 = .ok .setfreq ∧
  ∀ s : State, s.auto = false → smallChange s.freq s.center s.centerValid s.ppm = false →
    (solveDivider s.params s.freq s.grade = none →
      exec .setfreq s = .next { s with err := .noDiv, path := false }) ∧
    (∀ (d : Divider) (e : Err), solveDivider s.params s.freq s.grade = some d →
      calcImage s.params s.freq d s.xtal = .error e →
      exec .setfreq s = .next { s with err := e, path := false, div := d }) ∧
    (∀ (d : Divider) (b : Bytes6), solveDivider s.params s.freq s.grade = some d →
      calcImage s.params s.freq d s.xtal = .ok b →
      ∃ e1 e2 e3 e4 : Bool, Supplied s.errIn [e1, e2, e3, e4] ∧
        exec .setfreq s = .next
          (let t := afterLarge b { s with err := .ok, path := false, div := d, img := b } e1 e2 e3 e4
           if e1 || e2 || e3 || e4 then t else { t with center := s.freq, centerValid := true, cdiv := d }))

/-- The small path of SETFREQ, row by row (spec/46_pipeline.md section 2, R231, R232, R235, the spec's decisions D19 and D30):
calculator fails, or the short write sequence runs; DIV, CDIV, CENTER and CENTER_VALID stay in every case. -/
def Obligations.SetfreqSmallPathOutcomes : Prop :=
  ∀ s : State, s.auto = false → smallChange s.freq s.center s.centerValid s.ppm = true →
    (∀ e : Err, calcImage s.params s.freq s.cdiv s.xtal = .error e →
      exec .setfreq s = .next { s with err := e, path := true }) ∧
    (∀ b : Bytes6, calcImage s.params s.freq s.cdiv s.xtal = .ok b →
      ∃ e1 e2 e3 : Bool, Supplied s.errIn [e1, e2, e3] ∧
        exec .setfreq s = .next (afterSmall b { s with err := .ok, path := true, img := b } e1 e2 e3))

/-- When a large change commits: no detection pending, no small change, a solvable frequency, an image, and no bus error.
CENTER becomes FREQ, CENTER_VALID 1, CDIV and DIV the new divider, and IMG decodes to it and to the rounded quotient
(spec/46_pipeline.md sections 2 and 4, R233 and R240 (5), the spec's decisions D19 and D24). -/
def Obligations.SetfreqLargeChangeCommits : Prop :=
  ∀ (s : State) (d : Divider) (b : Bytes6) (rest : List Bool),
    s.params.WellFormed → s.auto = false → smallChange s.freq s.center s.centerValid s.ppm = false →
    solveDivider s.params s.freq s.grade = some d → calcImage s.params s.freq d s.xtal = .ok b →
    s.errIn = false :: false :: false :: false :: rest →
    ∃ t : State, exec .setfreq s = .next t ∧
      t = { s with err := .ok, path := false, div := d, cdiv := d, img := b, center := s.freq, centerValid := true,
                   seq := .committed, errIn := rest, trace := t.trace } ∧
      unpack b = ⟨d.hs.toNat, d.n1.toNat, divround s.params (mul16x32 d.n s.freq) s.xtal⟩ ∧
      t.trace = s.trace ++
        (wregEvents s.params s.params.regFrz s.params.frzDco false ++
         wblockEvents s.params (if s.addrmode.getLsbD 0 then s.params.idx1 else s.params.idx0) b false ++
         wregEvents s.params s.params.regFrz 0x00 false ++
         wregEvents s.params s.params.regNewf s.params.newfreq false) ∧
      SameBytesExcept s t [(0x28, 14), (0x38, 7)]

/-- When a small change completes: PPM not 0, the center set and near, an image for the committed dividers, and no bus error.
IMG is the new image and decodes to the committed dividers
and the rounded quotient, sent inside the "M" freeze bracket when FREEZE_M is 1; DIV, CDIV, CENTER and CENTER_VALID stay
(spec/46_pipeline.md section 2, R232, the spec's decision D19). -/
def Obligations.SetfreqSmallChangeCompletes : Prop :=
  ∀ (s : State) (b : Bytes6) (rest : List Bool),
    s.Inv → s.auto = false → smallChange s.freq s.center s.centerValid s.ppm = true →
    calcImage s.params s.freq s.cdiv s.xtal = .ok b →
    s.errIn = (if s.addrmode.getLsbD 1 then [false, false, false] else [false]) ++ rest →
    ∃ t : State, exec .setfreq s = .next t ∧
      t = { s with err := .ok, path := true, img := b, seq := .committed, errIn := rest, trace := t.trace } ∧
      unpack b = ⟨s.cdiv.hs.toNat, s.cdiv.n1.toNat, divround s.params (mul16x32 s.cdiv.n s.freq) s.xtal⟩ ∧
      (let block := wblockEvents s.params (if s.addrmode.getLsbD 0 then s.params.idx1 else s.params.idx0) b false
       t.trace = s.trace ++
        (if s.addrmode.getLsbD 1 then
          wregEvents s.params s.params.regFrzm s.params.frzM false ++ block ++
            wregEvents s.params s.params.regFrzm 0x00 false
         else block)) ∧
      SameBytesExcept s t [(0x30, 6), (0x3C, 3)]

/-- If SETFREQ ends with ERR_NODIV, ERR_DCO or ERR_CFG, no bus event was issued and IMG, SEQ and the smooth-tune state are as
before; if it ends with any error, CENTER, CENTER_VALID and CDIV are as before; only an outcome OK or ERR_BUS issues bus
events (spec/46_pipeline.md section 4, R240 (1),
(2), inferences the spec marks as its own). -/
def Obligations.FailedSetfreqKeepsTuneState : Prop :=
  ∀ s : State, ∃ t : State, exec .setfreq s = .next t ∧
    (t.err = .noDiv ∨ t.err = .dco ∨ t.err = .cfg → t.trace = s.trace ∧ t.img = s.img ∧ t.seq = s.seq) ∧
    (t.err ≠ .ok → t.center = s.center ∧ t.centerValid = s.centerValid ∧ t.cdiv = s.cdiv) ∧
    (t.err = .ok ∨ t.err = .bus → s.trace ≠ t.trace ∧ s.auto = false)

/-- A SETFREQ that took the small path issued neither the freeze of the large change nor the strobe, provided the "M" freeze
and its unfreeze are other register writes than these two, and left DIV as it was (spec/46_pipeline.md section 4, R240 (3), an inference the spec
marks as its own; scenario B). -/
def Obligations.SmallPathNeverStrobes : Prop :=
  ∀ s t : State, s.auto = false → exec .setfreq s = .next t → t.path = true →
    (s.params.regFrzm, s.params.frzM) ≠ (s.params.regFrz, s.params.frzDco) →
    (s.params.regFrzm, s.params.frzM) ≠ (s.params.regNewf, s.params.newfreq) →
    (s.params.regFrzm, 0) ≠ (s.params.regFrz, s.params.frzDco) →
    (s.params.regFrzm, 0) ≠ (s.params.regNewf, s.params.newfreq) →
    t.div = s.div ∧ t.cdiv = s.cdiv ∧ t.center = s.center ∧
    ∃ evs : List BusEvent, t.trace = s.trace ++ evs ∧
      (∀ pre post : List BusEvent, evs ≠ pre ++
        ([.start s.params.sla .write, .send s.params.regFrz, .send s.params.frzDco, .stop] : List BusEvent) ++ post) ∧
      (∀ pre post : List BusEvent, evs ≠ pre ++
        ([.start s.params.sla .write, .send s.params.regNewf, .send s.params.newfreq, .stop] : List BusEvent) ++ post)

/-- A transport error in the block write of a large change ends the sequence there: two transactions, no unfreeze, SEQ
FROZEN, ERR_BUS, the smooth-tune state at its old value (spec/46_pipeline.md section 4, R240 (4), an inference the spec
marks as its own; scenario C). -/
def Obligations.FailedBlockWriteStopsTheSequence : Prop :=
  ∀ (s : State) (d : Divider) (b : Bytes6) (rest : List Bool),
    s.auto = false → smallChange s.freq s.center s.centerValid s.ppm = false →
    solveDivider s.params s.freq s.grade = some d → calcImage s.params s.freq d s.xtal = .ok b →
    s.errIn = false :: true :: rest →
    exec .setfreq s = .next
      { s with err := .bus, path := false, div := d, img := b, seq := .frozen, errIn := rest,
               trace := s.trace ++ (wregEvents s.params s.params.regFrz s.params.frzDco false ++
                 wblockEvents s.params (if s.addrmode.getLsbD 0 then s.params.idx1 else s.params.idx0) b true) }

/-- Frequency 0 always ends SETFREQ in ERR_NODIV on the large path, in every state the invariant allows
(spec/46_pipeline.md section 2, R234). -/
def Obligations.ZeroFrequencyIsRejected : Prop :=
  ∀ s : State, s.Inv → s.auto = false → s.freq = 0 →
    exec .setfreq s = .next { s with err := .noDiv, path := false }

/-- ERR_DCO is reported by CALC exactly when DIV is set and the range check fails, and by SETFREQ exactly when the dividers of
the path it takes fail it; IMG and the trace are then unchanged (spec/60_exceptions.md R255, spec/42_tuning_word.md section
2). -/
def Obligations.DcoErrorExactlyWhenOutOfRange : Prop :=
  ∀ s : State,
    let tooFast := fun d : Divider => s.params.dcoMax8.toNat < d.n.toNat * s.freq.toNat / 2 ^ 24
    (∃ t : State, exec .calcCmd s = .next t ∧ (t.err = .dco ↔ s.div.hs ≠ 0 ∧ tooFast s.div) ∧
      (t.err = .dco → t = { s with err := .dco })) ∧
    (s.auto = false → ∃ t : State, exec .setfreq s = .next t ∧
      (smallChange s.freq s.center s.centerValid s.ppm = true →
        (t.err = .dco ↔ tooFast s.cdiv) ∧ (t.err = .dco → t = { s with err := .dco, path := true })) ∧
      (smallChange s.freq s.center s.centerValid s.ppm = false →
        (t.err = .dco ↔ ∃ d, solveDivider s.params s.freq s.grade = some d ∧ tooFast d) ∧
        (t.err = .dco → t = { s with err := .dco, path := false, div := t.div } ∧
          solveDivider s.params s.freq s.grade = some t.div)))

/-- A large-path SETFREQ leaves the engine and the bus exactly as SOLVE, CALC and WRLARGE one after another would, plus PATH
and the commit, when no error occurs (spec/46_pipeline.md section 2, R238, an inference the spec marks as its own). That the
transport answers both alike, as it answers equal traces alike, is the model's choice, log entry 6. -/
def Obligations.SetfreqEqualsStandAloneCommands : Prop :=
  ∀ s t1 t2 t3 : State, s.auto = false → smallChange s.freq s.center s.centerValid s.ppm = false →
    exec .solve s = .next t1 → t1.err = .ok → exec .calcCmd t1 = .next t2 → t2.err = .ok →
    exec .wrlarge t2 = .next t3 → t3.err = .ok →
    exec .setfreq s = .next { t3 with path := false, center := s.freq, centerValid := true, cdiv := t3.div }

/-- ONLINE clears CENTER_VALID and STATUS.ERR and nothing else, and the next SETFREQ that is not refused takes the large path
(spec/46_pipeline.md section 3, R236, the spec's decision D29). -/
def Obligations.OnlineForcesLargeChange : Prop :=
  decode 0x31 = .ok .online ∧
  ∀ s : State, ∃ t : State, exec .online s = .next t ∧ t = { s with err := .ok, centerValid := false } ∧
    SameBytesExcept s t [(0x3C, 2)] ∧
    ∃ u : State, exec .setfreq t = .next u ∧ (s.auto = false → u.path = false)

/-! ### Whole-machine rules -/

/-- The invariant of spec/10_state.md R25 and R26 is kept by every step from every state that has it: DIV and CDIV unset or
legal, and a valid center with committed dividers that keep the DCO at or above its minimum there. -/
def Obligations.InvariantKeptByEveryStep : Prop :=
  ∀ s t : State, s.Inv → step s = .next t → t.Inv

/-- The invariant holds after reset (for the default parameters, whose values are presumed, log entry 1). -/
def Obligations.InvariantHoldsAtReset : Prop :=
  State.reset.Inv

/-- Only three events change the smooth-tune state: SETFREQ, when its large change ends with every step good (then CENTER is
FREQ and CDIV is DIV); ONLINE, which clears CENTER_VALID only; and reset (spec/10_state.md section 4,
spec/90_conflicts.md C10). In particular no host write to a data register does. -/
def Obligations.TuneStateWrittenByThreeEvents : Prop :=
  ∀ s t : State, step s = .next t →
    (t.center = s.center ∧ t.cdiv = s.cdiv ∧ t.centerValid = s.centerValid) ∨
    (∃ rest, s.hostIn = .wr 0x3F 0x30 :: rest ∧ t.err = .ok ∧ t.path = false ∧ t.seq = .committed ∧
      t.center = s.freq ∧ t.centerValid = true ∧ t.cdiv = t.div) ∨
    (∃ rest, s.hostIn = .wr 0x3F 0x31 :: rest ∧ t.center = s.center ∧ t.cdiv = s.cdiv ∧ t.centerValid = false) ∨
    (∃ rest, s.hostIn = .reset :: rest)

/-- The bus discipline of every command, for every answer of the transport, in totals over the command's own events: it
appends events to the trace and takes none away; it starts at most four transactions; it reads the error flag as many times
as it starts transactions; it moves in all at most seven times as many bytes as it starts transactions; nothing follows an
error flag read as 1; and it ends in ERR_BUS exactly when it read such a flag (spec/44_write_protocol.md sections 1 and 5,
R194 and R205; the bounds are those of R77, spec/20_memory.md section 5, which gives the seven for each transaction;
spec/60_exceptions.md section 2; the spec's decision D20). -/
def Obligations.BusDisciplineOfEveryCommand : Prop :=
  ∀ (i : Instr) (s : State), ∃ (t : State) (evs : List BusEvent), exec i s = .next t ∧ t.trace = s.trace ++ evs ∧
    quietAfterError evs = true ∧ errCount evs = startCount evs ∧ startCount evs ≤ 4 ∧
    byteCount evs ≤ 7 * startCount evs ∧ (t.err = .bus ↔ BusEvent.err true ∈ evs)

/-- ERR_BUS (spec/60_exceptions.md section 2, R256, with the SEQ values of the spec's decision D21): only the four commands that
use the bus report it, the smooth-tune state is then unchanged, and SEQ names the last good step: its code is the number of
transactions before the failing one (DETECT leaves SEQ alone). -/
def Obligations.BusErrorNamesLastGoodStep : Prop :=
  ∀ (i : Instr) (s t : State), exec i s = .next t → t.err = .bus →
    i ∈ ([.wrlarge, .wrsmall, .setfreq, .detect] : List Instr) ∧
    t.center = s.center ∧ t.centerValid = s.centerValid ∧ t.cdiv = s.cdiv ∧
    ∃ evs : List BusEvent, t.trace = s.trace ++ evs ∧ quietAfterError evs = true ∧
      (i = .detect → t.seq = s.seq) ∧
      (i ≠ .detect → t.seq.code.toNat + 1 = startCount evs)

/-- Which command may write which register: the "Written by" column of the table of spec/10_state.md R20 (section 1, the
spec's decision D7); no command writes an operand or configuration register but ADDRMODE in DETECT and PROD in MUL. -/
def Obligations.OnlyNamedWritersWrite : Prop :=
  ∀ (i : Instr) (s t : State), exec i s = .next t →
    t.freq = s.freq ∧ t.xtal = s.xtal ∧ t.ppm = s.ppm ∧ t.grade = s.grade ∧ t.ma = s.ma ∧ t.mb = s.mb ∧ t.dvs = s.dvs ∧
    t.params = s.params ∧ t.hostIn = s.hostIn ∧ t.hostOut = s.hostOut ∧
    (i ≠ .detect → t.addrmode = s.addrmode ∧ t.rbuf = s.rbuf ∧ t.rxIn = s.rxIn) ∧
    (i ≠ .mul → t.prod = s.prod) ∧
    (i ≠ .divr → t.quot = s.quot ∧ t.qovf = s.qovf) ∧
    (i ≠ .solve → i ≠ .setfreq → t.div = s.div) ∧
    (i ≠ .calcCmd → i ≠ .setfreq → t.img = s.img) ∧
    (i ≠ .setfreq → t.cdiv = s.cdiv ∧ t.center = s.center ∧ t.path = s.path) ∧
    (i ≠ .setfreq → i ≠ .online → t.centerValid = s.centerValid) ∧
    (i ≠ .decideCmd → i ≠ .detect → t.result = s.result) ∧
    (i ≠ .wrlarge → i ≠ .wrsmall → i ≠ .setfreq → t.seq = s.seq) ∧
    (i ≠ .wrlarge → i ≠ .wrsmall → i ≠ .setfreq → i ≠ .detect → t.trace = s.trace ∧ t.errIn = s.errIn)

/-- Which command can report which error (spec/60_exceptions.md section 2, R259, an inference the spec marks as its own). -/
def Obligations.ErrorsEachCommandCanReport : Prop :=
  ∀ (i : Instr) (s t : State), exec i s = .next t →
    t.err ∈ (match i with
      | .nop => [.ok]
      | .mul => [.ok]
      | .divr => [.ok, .cfg]
      | .solve => [.ok, .noDiv]
      | .calcCmd => [.ok, .dco, .cfg]
      | .decideCmd => [.ok]
      | .wrlarge => [.ok, .bus, .cfg]
      | .wrsmall => [.ok, .bus, .cfg]
      | .detect => [.ok, .bus]
      | .setfreq => [.ok, .noDiv, .dco, .bus, .cfg]
      | .online => [.ok] : List Err)

/-- Errors are not sticky and the result flags and SEQ are never read: a command's outcome does not depend on the old
STATUS.ERR, and changing RESULT, PATH, QOVF or SEQ before it changes nothing but those it leaves alone
(spec/60_exceptions.md section 1, spec/10_state.md section 5, the spec's decisions D7, D21 and D25). That the transport
answers both runs alike is the model's choice, log entry 6. -/
def Obligations.ResultFieldsAreNeverRead : Prop :=
  ∀ (i : Instr) (s : State) (e : Err) (q : Seq) (r p o : Bool),
    ∃ t u : State, exec i s = .next t ∧
      exec i { s with err := e, seq := q, result := r, path := p, qovf := o } = .next u ∧
      t = { u with seq := t.seq, result := t.result, path := t.path, qovf := t.qovf } ∧
      (t.seq = u.seq ∨ (t.seq = s.seq ∧ u.seq = q)) ∧
      (t.result = u.result ∨ (t.result = s.result ∧ u.result = r)) ∧
      (t.path = u.path ∨ (t.path = s.path ∧ u.path = p)) ∧
      (t.qovf = u.qovf ∨ (t.qovf = s.qovf ∧ u.qovf = o))

/-- Without a ppm limit SETFREQ takes the large path, and it never programs a product at or above the DCO limit: an image it
writes decodes, on a legal divider, to one whose product with FREQ is below `(DCO_MAX8 + 1) × 2^24`
(spec/46_pipeline.md section 4, R240 (6), (7), inferences the spec marks as its own). -/
def Obligations.SetfreqRespectsPpmAndRange : Prop :=
  ∀ s : State, s.Inv → s.auto = false → ∃ t : State, exec .setfreq s = .next t ∧
    (s.ppm = 0 → t.path = false) ∧
    (t.err = .ok ∨ t.err = .bus →
      (unpack t.img).hs * (unpack t.img).n1 * s.freq.toNat < (s.params.dcoMax8.toNat + 1) * 2 ^ 24)
end

