-- ==== Sys2Proof/Laws/State.lean ====
section
/-! SUPPORT. One lemma per field for the shared updates of the state. -/

namespace Sys2Proof.Machine

/-! ### startCommand -/

@[simp] theorem startCommand_freq (s : State) : (s.startCommand).freq = s.freq := rfl
@[simp] theorem startCommand_xtal (s : State) : (s.startCommand).xtal = s.xtal := rfl
@[simp] theorem startCommand_ppm (s : State) : (s.startCommand).ppm = s.ppm := rfl
@[simp] theorem startCommand_grade (s : State) : (s.startCommand).grade = s.grade := rfl
@[simp] theorem startCommand_addrmode (s : State) : (s.startCommand).addrmode = s.addrmode := rfl
@[simp] theorem startCommand_ma (s : State) : (s.startCommand).ma = s.ma := rfl
@[simp] theorem startCommand_mb (s : State) : (s.startCommand).mb = s.mb := rfl
@[simp] theorem startCommand_dvs (s : State) : (s.startCommand).dvs = s.dvs := rfl
@[simp] theorem startCommand_prod (s : State) : (s.startCommand).prod = s.prod := rfl
@[simp] theorem startCommand_quot (s : State) : (s.startCommand).quot = s.quot := rfl
@[simp] theorem startCommand_div (s : State) : (s.startCommand).div = s.div := rfl
@[simp] theorem startCommand_cdiv (s : State) : (s.startCommand).cdiv = s.cdiv := rfl
@[simp] theorem startCommand_img (s : State) : (s.startCommand).img = s.img := rfl
@[simp] theorem startCommand_center (s : State) : (s.startCommand).center = s.center := rfl
@[simp] theorem startCommand_centerValid (s : State) : (s.startCommand).centerValid = s.centerValid := rfl
@[simp] theorem startCommand_result (s : State) : (s.startCommand).result = s.result := rfl
@[simp] theorem startCommand_path (s : State) : (s.startCommand).path = s.path := rfl
@[simp] theorem startCommand_qovf (s : State) : (s.startCommand).qovf = s.qovf := rfl
@[simp] theorem startCommand_err (s : State) : (s.startCommand).err = .ok := rfl
@[simp] theorem startCommand_seq (s : State) : (s.startCommand).seq = s.seq := rfl
@[simp] theorem startCommand_rbuf (s : State) : (s.startCommand).rbuf = s.rbuf := rfl
@[simp] theorem startCommand_params (s : State) : (s.startCommand).params = s.params := rfl
@[simp] theorem startCommand_hostIn (s : State) : (s.startCommand).hostIn = s.hostIn := rfl
@[simp] theorem startCommand_hostOut (s : State) : (s.startCommand).hostOut = s.hostOut := rfl
@[simp] theorem startCommand_errIn (s : State) : (s.startCommand).errIn = s.errIn := rfl
@[simp] theorem startCommand_rxIn (s : State) : (s.startCommand).rxIn = s.rxIn := rfl
@[simp] theorem startCommand_trace (s : State) : (s.startCommand).trace = s.trace := rfl

/-! ### fail -/

@[simp] theorem fail_freq (e : Err) (s : State) : (s.fail e).freq = s.freq := rfl
@[simp] theorem fail_xtal (e : Err) (s : State) : (s.fail e).xtal = s.xtal := rfl
@[simp] theorem fail_ppm (e : Err) (s : State) : (s.fail e).ppm = s.ppm := rfl
@[simp] theorem fail_grade (e : Err) (s : State) : (s.fail e).grade = s.grade := rfl
@[simp] theorem fail_addrmode (e : Err) (s : State) : (s.fail e).addrmode = s.addrmode := rfl
@[simp] theorem fail_ma (e : Err) (s : State) : (s.fail e).ma = s.ma := rfl
@[simp] theorem fail_mb (e : Err) (s : State) : (s.fail e).mb = s.mb := rfl
@[simp] theorem fail_dvs (e : Err) (s : State) : (s.fail e).dvs = s.dvs := rfl
@[simp] theorem fail_prod (e : Err) (s : State) : (s.fail e).prod = s.prod := rfl
@[simp] theorem fail_quot (e : Err) (s : State) : (s.fail e).quot = s.quot := rfl
@[simp] theorem fail_div (e : Err) (s : State) : (s.fail e).div = s.div := rfl
@[simp] theorem fail_cdiv (e : Err) (s : State) : (s.fail e).cdiv = s.cdiv := rfl
@[simp] theorem fail_img (e : Err) (s : State) : (s.fail e).img = s.img := rfl
@[simp] theorem fail_center (e : Err) (s : State) : (s.fail e).center = s.center := rfl
@[simp] theorem fail_centerValid (e : Err) (s : State) : (s.fail e).centerValid = s.centerValid := rfl
@[simp] theorem fail_result (e : Err) (s : State) : (s.fail e).result = s.result := rfl
@[simp] theorem fail_path (e : Err) (s : State) : (s.fail e).path = s.path := rfl
@[simp] theorem fail_qovf (e : Err) (s : State) : (s.fail e).qovf = s.qovf := rfl
@[simp] theorem fail_err (e : Err) (s : State) : (s.fail e).err = e := rfl
@[simp] theorem fail_seq (e : Err) (s : State) : (s.fail e).seq = s.seq := rfl
@[simp] theorem fail_rbuf (e : Err) (s : State) : (s.fail e).rbuf = s.rbuf := rfl
@[simp] theorem fail_params (e : Err) (s : State) : (s.fail e).params = s.params := rfl
@[simp] theorem fail_hostIn (e : Err) (s : State) : (s.fail e).hostIn = s.hostIn := rfl
@[simp] theorem fail_hostOut (e : Err) (s : State) : (s.fail e).hostOut = s.hostOut := rfl
@[simp] theorem fail_errIn (e : Err) (s : State) : (s.fail e).errIn = s.errIn := rfl
@[simp] theorem fail_rxIn (e : Err) (s : State) : (s.fail e).rxIn = s.rxIn := rfl
@[simp] theorem fail_trace (e : Err) (s : State) : (s.fail e).trace = s.trace := rfl

/-! ### emit -/

@[simp] theorem emit_freq (ev : BusEvent) (s : State) : (emit ev s).freq = s.freq := rfl
@[simp] theorem emit_xtal (ev : BusEvent) (s : State) : (emit ev s).xtal = s.xtal := rfl
@[simp] theorem emit_ppm (ev : BusEvent) (s : State) : (emit ev s).ppm = s.ppm := rfl
@[simp] theorem emit_grade (ev : BusEvent) (s : State) : (emit ev s).grade = s.grade := rfl
@[simp] theorem emit_addrmode (ev : BusEvent) (s : State) : (emit ev s).addrmode = s.addrmode := rfl
@[simp] theorem emit_ma (ev : BusEvent) (s : State) : (emit ev s).ma = s.ma := rfl
@[simp] theorem emit_mb (ev : BusEvent) (s : State) : (emit ev s).mb = s.mb := rfl
@[simp] theorem emit_dvs (ev : BusEvent) (s : State) : (emit ev s).dvs = s.dvs := rfl
@[simp] theorem emit_prod (ev : BusEvent) (s : State) : (emit ev s).prod = s.prod := rfl
@[simp] theorem emit_quot (ev : BusEvent) (s : State) : (emit ev s).quot = s.quot := rfl
@[simp] theorem emit_div (ev : BusEvent) (s : State) : (emit ev s).div = s.div := rfl
@[simp] theorem emit_cdiv (ev : BusEvent) (s : State) : (emit ev s).cdiv = s.cdiv := rfl
@[simp] theorem emit_img (ev : BusEvent) (s : State) : (emit ev s).img = s.img := rfl
@[simp] theorem emit_center (ev : BusEvent) (s : State) : (emit ev s).center = s.center := rfl
@[simp] theorem emit_centerValid (ev : BusEvent) (s : State) : (emit ev s).centerValid = s.centerValid := rfl
@[simp] theorem emit_result (ev : BusEvent) (s : State) : (emit ev s).result = s.result := rfl
@[simp] theorem emit_path (ev : BusEvent) (s : State) : (emit ev s).path = s.path := rfl
@[simp] theorem emit_qovf (ev : BusEvent) (s : State) : (emit ev s).qovf = s.qovf := rfl
@[simp] theorem emit_err (ev : BusEvent) (s : State) : (emit ev s).err = s.err := rfl
@[simp] theorem emit_seq (ev : BusEvent) (s : State) : (emit ev s).seq = s.seq := rfl
@[simp] theorem emit_rbuf (ev : BusEvent) (s : State) : (emit ev s).rbuf = s.rbuf := rfl
@[simp] theorem emit_params (ev : BusEvent) (s : State) : (emit ev s).params = s.params := rfl
@[simp] theorem emit_hostIn (ev : BusEvent) (s : State) : (emit ev s).hostIn = s.hostIn := rfl
@[simp] theorem emit_hostOut (ev : BusEvent) (s : State) : (emit ev s).hostOut = s.hostOut := rfl
@[simp] theorem emit_errIn (ev : BusEvent) (s : State) : (emit ev s).errIn = s.errIn := rfl
@[simp] theorem emit_rxIn (ev : BusEvent) (s : State) : (emit ev s).rxIn = s.rxIn := rfl
@[simp] theorem emit_trace (ev : BusEvent) (s : State) : (emit ev s).trace = s.trace ++ [ev] := rfl

/-! ### setSeq -/

@[simp] theorem setSeq_freq (s : State) (q : Seq) : (s.setSeq q).freq = s.freq := rfl
@[simp] theorem setSeq_xtal (s : State) (q : Seq) : (s.setSeq q).xtal = s.xtal := rfl
@[simp] theorem setSeq_ppm (s : State) (q : Seq) : (s.setSeq q).ppm = s.ppm := rfl
@[simp] theorem setSeq_grade (s : State) (q : Seq) : (s.setSeq q).grade = s.grade := rfl
@[simp] theorem setSeq_addrmode (s : State) (q : Seq) : (s.setSeq q).addrmode = s.addrmode := rfl
@[simp] theorem setSeq_ma (s : State) (q : Seq) : (s.setSeq q).ma = s.ma := rfl
@[simp] theorem setSeq_mb (s : State) (q : Seq) : (s.setSeq q).mb = s.mb := rfl
@[simp] theorem setSeq_dvs (s : State) (q : Seq) : (s.setSeq q).dvs = s.dvs := rfl
@[simp] theorem setSeq_prod (s : State) (q : Seq) : (s.setSeq q).prod = s.prod := rfl
@[simp] theorem setSeq_quot (s : State) (q : Seq) : (s.setSeq q).quot = s.quot := rfl
@[simp] theorem setSeq_div (s : State) (q : Seq) : (s.setSeq q).div = s.div := rfl
@[simp] theorem setSeq_cdiv (s : State) (q : Seq) : (s.setSeq q).cdiv = s.cdiv := rfl
@[simp] theorem setSeq_img (s : State) (q : Seq) : (s.setSeq q).img = s.img := rfl
@[simp] theorem setSeq_center (s : State) (q : Seq) : (s.setSeq q).center = s.center := rfl
@[simp] theorem setSeq_centerValid (s : State) (q : Seq) : (s.setSeq q).centerValid = s.centerValid := rfl
@[simp] theorem setSeq_result (s : State) (q : Seq) : (s.setSeq q).result = s.result := rfl
@[simp] theorem setSeq_path (s : State) (q : Seq) : (s.setSeq q).path = s.path := rfl
@[simp] theorem setSeq_qovf (s : State) (q : Seq) : (s.setSeq q).qovf = s.qovf := rfl
@[simp] theorem setSeq_err (s : State) (q : Seq) : (s.setSeq q).err = s.err := rfl
@[simp] theorem setSeq_seq (s : State) (q : Seq) : (s.setSeq q).seq = q := rfl
@[simp] theorem setSeq_rbuf (s : State) (q : Seq) : (s.setSeq q).rbuf = s.rbuf := rfl
@[simp] theorem setSeq_params (s : State) (q : Seq) : (s.setSeq q).params = s.params := rfl
@[simp] theorem setSeq_hostIn (s : State) (q : Seq) : (s.setSeq q).hostIn = s.hostIn := rfl
@[simp] theorem setSeq_hostOut (s : State) (q : Seq) : (s.setSeq q).hostOut = s.hostOut := rfl
@[simp] theorem setSeq_errIn (s : State) (q : Seq) : (s.setSeq q).errIn = s.errIn := rfl
@[simp] theorem setSeq_rxIn (s : State) (q : Seq) : (s.setSeq q).rxIn = s.rxIn := rfl
@[simp] theorem setSeq_trace (s : State) (q : Seq) : (s.setSeq q).trace = s.trace := rfl

/-! ### commitTune -/

@[simp] theorem commitTune_freq (s : State) : (commitTune s).freq = s.freq := rfl
@[simp] theorem commitTune_xtal (s : State) : (commitTune s).xtal = s.xtal := rfl
@[simp] theorem commitTune_ppm (s : State) : (commitTune s).ppm = s.ppm := rfl
@[simp] theorem commitTune_grade (s : State) : (commitTune s).grade = s.grade := rfl
@[simp] theorem commitTune_addrmode (s : State) : (commitTune s).addrmode = s.addrmode := rfl
@[simp] theorem commitTune_ma (s : State) : (commitTune s).ma = s.ma := rfl
@[simp] theorem commitTune_mb (s : State) : (commitTune s).mb = s.mb := rfl
@[simp] theorem commitTune_dvs (s : State) : (commitTune s).dvs = s.dvs := rfl
@[simp] theorem commitTune_prod (s : State) : (commitTune s).prod = s.prod := rfl
@[simp] theorem commitTune_quot (s : State) : (commitTune s).quot = s.quot := rfl
@[simp] theorem commitTune_div (s : State) : (commitTune s).div = s.div := rfl
@[simp] theorem commitTune_cdiv (s : State) : (commitTune s).cdiv = s.div := rfl
@[simp] theorem commitTune_img (s : State) : (commitTune s).img = s.img := rfl
@[simp] theorem commitTune_center (s : State) : (commitTune s).center = s.freq := rfl
@[simp] theorem commitTune_centerValid (s : State) : (commitTune s).centerValid = true := rfl
@[simp] theorem commitTune_result (s : State) : (commitTune s).result = s.result := rfl
@[simp] theorem commitTune_path (s : State) : (commitTune s).path = s.path := rfl
@[simp] theorem commitTune_qovf (s : State) : (commitTune s).qovf = s.qovf := rfl
@[simp] theorem commitTune_err (s : State) : (commitTune s).err = s.err := rfl
@[simp] theorem commitTune_seq (s : State) : (commitTune s).seq = s.seq := rfl
@[simp] theorem commitTune_rbuf (s : State) : (commitTune s).rbuf = s.rbuf := rfl
@[simp] theorem commitTune_params (s : State) : (commitTune s).params = s.params := rfl
@[simp] theorem commitTune_hostIn (s : State) : (commitTune s).hostIn = s.hostIn := rfl
@[simp] theorem commitTune_hostOut (s : State) : (commitTune s).hostOut = s.hostOut := rfl
@[simp] theorem commitTune_errIn (s : State) : (commitTune s).errIn = s.errIn := rfl
@[simp] theorem commitTune_rxIn (s : State) : (commitTune s).rxIn = s.rxIn := rfl
@[simp] theorem commitTune_trace (s : State) : (commitTune s).trace = s.trace := rfl

/-! ### completeRead -/

@[simp] theorem completeRead_freq (s : State) (a : BitVec 7) : (completeRead s a).freq = s.freq := rfl
@[simp] theorem completeRead_xtal (s : State) (a : BitVec 7) : (completeRead s a).xtal = s.xtal := rfl
@[simp] theorem completeRead_ppm (s : State) (a : BitVec 7) : (completeRead s a).ppm = s.ppm := rfl
@[simp] theorem completeRead_grade (s : State) (a : BitVec 7) : (completeRead s a).grade = s.grade := rfl
@[simp] theorem completeRead_addrmode (s : State) (a : BitVec 7) : (completeRead s a).addrmode = s.addrmode := rfl
@[simp] theorem completeRead_ma (s : State) (a : BitVec 7) : (completeRead s a).ma = s.ma := rfl
@[simp] theorem completeRead_mb (s : State) (a : BitVec 7) : (completeRead s a).mb = s.mb := rfl
@[simp] theorem completeRead_dvs (s : State) (a : BitVec 7) : (completeRead s a).dvs = s.dvs := rfl
@[simp] theorem completeRead_prod (s : State) (a : BitVec 7) : (completeRead s a).prod = s.prod := rfl
@[simp] theorem completeRead_quot (s : State) (a : BitVec 7) : (completeRead s a).quot = s.quot := rfl
@[simp] theorem completeRead_div (s : State) (a : BitVec 7) : (completeRead s a).div = s.div := rfl
@[simp] theorem completeRead_cdiv (s : State) (a : BitVec 7) : (completeRead s a).cdiv = s.cdiv := rfl
@[simp] theorem completeRead_img (s : State) (a : BitVec 7) : (completeRead s a).img = s.img := rfl
@[simp] theorem completeRead_center (s : State) (a : BitVec 7) : (completeRead s a).center = s.center := rfl
@[simp] theorem completeRead_centerValid (s : State) (a : BitVec 7) : (completeRead s a).centerValid = s.centerValid := rfl
@[simp] theorem completeRead_result (s : State) (a : BitVec 7) : (completeRead s a).result = s.result := rfl
@[simp] theorem completeRead_path (s : State) (a : BitVec 7) : (completeRead s a).path = s.path := rfl
@[simp] theorem completeRead_qovf (s : State) (a : BitVec 7) : (completeRead s a).qovf = s.qovf := rfl
@[simp] theorem completeRead_err (s : State) (a : BitVec 7) : (completeRead s a).err = s.err := rfl
@[simp] theorem completeRead_seq (s : State) (a : BitVec 7) : (completeRead s a).seq = s.seq := rfl
@[simp] theorem completeRead_rbuf (s : State) (a : BitVec 7) : (completeRead s a).rbuf = s.rbuf := rfl
@[simp] theorem completeRead_params (s : State) (a : BitVec 7) : (completeRead s a).params = s.params := rfl
@[simp] theorem completeRead_hostIn (s : State) (a : BitVec 7) : (completeRead s a).hostIn = s.hostIn := rfl
@[simp] theorem completeRead_hostOut (s : State) (a : BitVec 7) : (completeRead s a).hostOut = s.hostOut ++ [hostRead s a] := rfl
@[simp] theorem completeRead_errIn (s : State) (a : BitVec 7) : (completeRead s a).errIn = s.errIn := rfl
@[simp] theorem completeRead_rxIn (s : State) (a : BitVec 7) : (completeRead s a).rxIn = s.rxIn := rfl
@[simp] theorem completeRead_trace (s : State) (a : BitVec 7) : (completeRead s a).trace = s.trace := rfl

/-! ### resetRegisters -/

@[simp] theorem resetRegisters_freq (s : State) : (s.resetRegisters).freq = State.reset.freq := rfl
@[simp] theorem resetRegisters_xtal (s : State) : (s.resetRegisters).xtal = State.reset.xtal := rfl
@[simp] theorem resetRegisters_ppm (s : State) : (s.resetRegisters).ppm = State.reset.ppm := rfl
@[simp] theorem resetRegisters_grade (s : State) : (s.resetRegisters).grade = State.reset.grade := rfl
@[simp] theorem resetRegisters_addrmode (s : State) : (s.resetRegisters).addrmode = State.reset.addrmode := rfl
@[simp] theorem resetRegisters_ma (s : State) : (s.resetRegisters).ma = State.reset.ma := rfl
@[simp] theorem resetRegisters_mb (s : State) : (s.resetRegisters).mb = State.reset.mb := rfl
@[simp] theorem resetRegisters_dvs (s : State) : (s.resetRegisters).dvs = State.reset.dvs := rfl
@[simp] theorem resetRegisters_prod (s : State) : (s.resetRegisters).prod = State.reset.prod := rfl
@[simp] theorem resetRegisters_quot (s : State) : (s.resetRegisters).quot = State.reset.quot := rfl
@[simp] theorem resetRegisters_div (s : State) : (s.resetRegisters).div = State.reset.div := rfl
@[simp] theorem resetRegisters_cdiv (s : State) : (s.resetRegisters).cdiv = State.reset.cdiv := rfl
@[simp] theorem resetRegisters_img (s : State) : (s.resetRegisters).img = State.reset.img := rfl
@[simp] theorem resetRegisters_center (s : State) : (s.resetRegisters).center = State.reset.center := rfl
@[simp] theorem resetRegisters_centerValid (s : State) : (s.resetRegisters).centerValid = State.reset.centerValid := rfl
@[simp] theorem resetRegisters_result (s : State) : (s.resetRegisters).result = State.reset.result := rfl
@[simp] theorem resetRegisters_path (s : State) : (s.resetRegisters).path = State.reset.path := rfl
@[simp] theorem resetRegisters_qovf (s : State) : (s.resetRegisters).qovf = State.reset.qovf := rfl
@[simp] theorem resetRegisters_err (s : State) : (s.resetRegisters).err = State.reset.err := rfl
@[simp] theorem resetRegisters_seq (s : State) : (s.resetRegisters).seq = State.reset.seq := rfl
@[simp] theorem resetRegisters_rbuf (s : State) : (s.resetRegisters).rbuf = State.reset.rbuf := rfl
@[simp] theorem resetRegisters_params (s : State) : (s.resetRegisters).params = s.params := rfl
@[simp] theorem resetRegisters_hostIn (s : State) : (s.resetRegisters).hostIn = s.hostIn := rfl
@[simp] theorem resetRegisters_hostOut (s : State) : (s.resetRegisters).hostOut = s.hostOut := rfl
@[simp] theorem resetRegisters_errIn (s : State) : (s.resetRegisters).errIn = s.errIn := rfl
@[simp] theorem resetRegisters_rxIn (s : State) : (s.resetRegisters).rxIn = s.rxIn := rfl
@[simp] theorem resetRegisters_trace (s : State) : (s.resetRegisters).trace = s.trace := rfl

end Sys2Proof.Machine
end

