-- ==== Sys2Proof/Laws/Ops.lean ====
section
/-! SUPPORT. What the bus transactions and the write sequences can do, said once each. -/

namespace Sys2Proof.Machine

/-! ### Answers of the transport -/

theorem errAnswer_of_supplied {s : State} {e : Bool} (h : s.errIn[0]? = some e) : errAnswer s = e := by
  unfold errAnswer
  cases hs : s.errIn with
  | nil => simp [hs] at h
  | cons a l => simpa [hs] using h

theorem byteAnswer_of_supplied {s : State} {b : Byte} (h : s.rxIn[0]? = some b) : byteAnswer s = b := by
  unfold byteAnswer
  cases hs : s.rxIn with
  | nil => simp [hs] at h
  | cons a l => simpa [hs] using h

theorem supplied_nil {α : Type} (l : List α) : Supplied l [] := by
  intro k a b _ h
  simp at h

theorem supplied_cons {α : Type} {l : List α} {x : α} {u : List α}
    (hx : ∀ a, l[0]? = some a → x = a) (hu : Supplied (l.drop 1) u) : Supplied l (x :: u) := by
  intro k a b ha hb
  cases k with
  | zero => simp at hb; exact hb ▸ (hx a ha).symm
  | succ k => exact hu k a b (by simpa [Nat.add_comm] using ha) (by simpa using hb)

/-- What is supplied in full is what is used. -/
theorem supplied_eq_of_append {α : Type} {u v rest : List α} (h : Supplied (u ++ rest) v) (hl : v.length = u.length) :
    v = u := by
  apply List.ext_getElem hl
  intro k h1 h2
  exact (h k u[k] v[k] (by simp [List.getElem?_append_left h2]) (by simp)).symm

/-! ### Transactions -/

/-- The state after a transaction that used m error answers and n byte answers and left the events evs. -/
def State.afterBus (s : State) (m n : Nat) (evs : List BusEvent) : State :=
  { s with errIn := s.errIn.drop m, rxIn := s.rxIn.drop n, trace := s.trace ++ evs }

theorem afterBus_afterBus (s : State) (m n m' n' : Nat) (evs evs' : List BusEvent) :
    (s.afterBus m n evs).afterBus m' n' evs' = s.afterBus (m + m') (n + n') (evs ++ evs') := by
  simp [State.afterBus]

theorem busSendAll_eq (bs : List Byte) (s : State) :
    busSendAll bs s = { s with trace := s.trace ++ bs.map BusEvent.send } := by
  induction bs generalizing s with
  | nil => simp [busSendAll]
  | cons b bs ih =>
    have : busSendAll (b :: bs) s = busSendAll bs (busSend b s) := rfl
    rw [this, ih]
    simp [busSend, emit]

/-- A register write is one transaction with its trace (R191). -/
theorem wreg_spec (reg val : Byte) (s : State) :
    ∃ e, (∀ a, s.errIn[0]? = some a → e = a) ∧
      wreg reg val s = (e, s.afterBus 1 0 (wregEvents s.params reg val e)) := by
  refine ⟨errAnswer (busStop (busSend val (busSend reg (busStart s.params.sla .write s)))), ?_, ?_⟩
  · intro a h
    refine errAnswer_of_supplied ?_
    simpa [busStop, busSend, busStart, emit] using h
  · simp [wreg, busErr, State.afterBus, wregEvents, busStop, busSend, busStart, emit]

/-- A block write is one transaction with its trace (R192). -/
theorem wblock_spec (idx : Byte) (b : Bytes6) (s : State) :
    ∃ e, (∀ a, s.errIn[0]? = some a → e = a) ∧
      wblock idx b s = (e, s.afterBus 1 0 (wblockEvents s.params idx b e)) := by
  refine ⟨errAnswer (busStop (busSendAll b.toList (busSend idx (busStart s.params.sla .write s)))), ?_, ?_⟩
  · intro a h
    refine errAnswer_of_supplied ?_
    simpa [busSendAll_eq, busStop, busSend, busStart, emit] using h
  · simp [wblock, busErr, busSendAll_eq, State.afterBus, wblockEvents, busStop, busSend, busStart, emit, Bytes6.toList]

/-- The index write of a block read is one transaction with its trace (R193). -/
theorem writeIndex_spec (idx : Byte) (s : State) :
    ∃ e, (∀ a, s.errIn[0]? = some a → e = a) ∧
      writeIndex idx s = (e, s.afterBus 1 0 (indexEvents s.params idx e)) := by
  refine ⟨errAnswer (busStop (busSend idx (busStart s.params.sla .write s))), ?_, ?_⟩
  · intro a h
    refine errAnswer_of_supplied ?_
    simpa [busStop, busSend, busStart, emit] using h
  · simp [writeIndex, busErr, State.afterBus, indexEvents, busStop, busSend, busStart, emit]

/-- One received byte uses one byte answer and leaves one event. -/
theorem busRecv_spec (k : BusAck) (s : State) :
    ∃ b, (∀ a, s.rxIn[0]? = some a → b = a) ∧ busRecv k s = (b, s.afterBus 0 1 [.recv k b]) := by
  refine ⟨byteAnswer s, fun a h => byteAnswer_of_supplied h, ?_⟩
  simp [busRecv, State.afterBus, emit]

/-- The six received bytes and their trace (R193). -/
theorem recvSix_spec (s : State) :
    ∃ d : Bytes6, Supplied s.rxIn d.toList ∧
      recvSix s = (d, s.afterBus 0 6 [.recv .ack d.b0, .recv .ack d.b1, .recv .ack d.b2, .recv .ack d.b3,
        .recv .ack d.b4, .recv .nack d.b5]) := by
  obtain ⟨b0, h0, e0⟩ := busRecv_spec .ack s
  obtain ⟨b1, h1, e1⟩ := busRecv_spec .ack (s.afterBus 0 1 [.recv .ack b0])
  obtain ⟨b2, h2, e2⟩ := busRecv_spec .ack ((s.afterBus 0 1 [.recv .ack b0]).afterBus 0 1 [.recv .ack b1])
  simp only [afterBus_afterBus] at e1 h2 e2
  obtain ⟨b3, h3, e3⟩ := busRecv_spec .ack (s.afterBus 0 3 [.recv .ack b0, .recv .ack b1, .recv .ack b2])
  obtain ⟨b4, h4, e4⟩ :=
    busRecv_spec .ack (s.afterBus 0 4 [.recv .ack b0, .recv .ack b1, .recv .ack b2, .recv .ack b3])
  obtain ⟨b5, h5, e5⟩ := busRecv_spec .nack
    (s.afterBus 0 5 [.recv .ack b0, .recv .ack b1, .recv .ack b2, .recv .ack b3, .recv .ack b4])
  simp only [afterBus_afterBus, List.cons_append, List.nil_append, Nat.reduceAdd] at e1 e2 e3 e4 e5
  refine ⟨⟨b0, b1, b2, b3, b4, b5⟩, ?_, ?_⟩
  · refine supplied_cons h0 (supplied_cons ?_ (supplied_cons ?_ (supplied_cons ?_ (supplied_cons ?_
      (supplied_cons ?_ (supplied_nil _))))))
    all_goals first | exact h1 | simpa [State.afterBus] using h2 | simpa [State.afterBus] using h3 |
      simpa [State.afterBus] using h4 | simpa [State.afterBus] using h5
  · simp only [recvSix, e0, e1, e2, e3, e4, e5]

/-- The error flag read at the end of a transaction (R194). -/
theorem busErr_spec (s : State) :
    ∃ e, (∀ a, s.errIn[0]? = some a → e = a) ∧ busErr s = (e, s.afterBus 1 0 [.err e]) := by
  refine ⟨errAnswer s, fun a h => errAnswer_of_supplied h, ?_⟩
  simp [busErr, State.afterBus, emit]

/-- The data transaction of a block read: six bytes, then the error flag (R193). -/
theorem readSix_spec (s : State) :
    ∃ (e : Bool) (d : Bytes6), (∀ a, s.errIn[0]? = some a → e = a) ∧ Supplied s.rxIn d.toList ∧
      readSix s = (e, d, s.afterBus 1 6 (readEvents s.params d e)) := by
  obtain ⟨d, hd, ed⟩ := recvSix_spec (busStart s.params.sla .read s)
  obtain ⟨e, he, ee⟩ := busErr_spec (busStop (recvSix (busStart s.params.sla .read s)).2)
  refine ⟨e, d, ?_, ?_, ?_⟩
  · intro a h
    refine he a ?_
    rw [ed]
    simpa [busStop, busStart, emit, State.afterBus] using h
  · simpa only [busStart, emit_rxIn] using hd
  · unfold readSix
    simp only [ee]
    rw [ed]
    simp [busStop, emit, State.afterBus, busStart, readEvents]

/-! ### Write sequences -/

theorem seqStep_error {tx : State → Bool × State} {q : Seq} {k : State → Bool × State} {s t : State}
    (h : tx s = (true, t)) : seqStep tx q k s = (false, t) := by
  simp [seqStep, h]

theorem seqStep_ok {tx : State → Bool × State} {q : Seq} {k : State → Bool × State} {s t : State}
    (h : tx s = (false, t)) : seqStep tx q k s = k (t.setSeq q) := by
  simp [seqStep, h]

/-- Everything `write_large` can do: the answers to its error flag decide, as the table of R199 says. -/
theorem writeLarge_spec (b : Bytes6) (s : State) :
    ∃ e1 e2 e3 e4 : Bool, Supplied s.errIn [e1, e2, e3, e4] ∧
      (writeLarge b s).1 = !(e1 || e2 || e3 || e4) ∧
      endSequence (writeLarge b s) = afterLarge b s e1 e2 e3 e4 := by
  let p := s.params
  let t0 : State := s.setSeq .idle
  let t1 : State := (t0.afterBus 1 0 (wregEvents t0.params p.regFrz p.frzDco false)).setSeq .frozen
  let t2 : State := (t1.afterBus 1 0 (wblockEvents t1.params (blockIndex s) b false)).setSeq .written
  let t3 : State := (t2.afterBus 1 0 (wregEvents t2.params p.regFrz 0x00 false)).setSeq .unfrozen
  obtain ⟨e1, h1, w1⟩ := wreg_spec p.regFrz p.frzDco t0
  obtain ⟨e2, h2, w2⟩ := wblock_spec (blockIndex s) b t1
  obtain ⟨e3, h3, w3⟩ := wreg_spec p.regFrz 0x00 t2
  obtain ⟨e4, h4, w4⟩ := wreg_spec p.regNewf p.newfreq t3
  refine ⟨e1, e2, e3, e4, ?_, ?_⟩
  · refine supplied_cons h1 (supplied_cons ?_ (supplied_cons ?_ (supplied_cons ?_ (supplied_nil _))))
    · simpa [t1, t0, State.afterBus] using h2
    · simpa [t2, t1, t0, State.afterBus] using h3
    · simpa [t3, t2, t1, t0, State.afterBus] using h4
  cases e1 with
  | true =>
    have h : writeLarge b s = (false, _) := seqStep_error w1
    rw [h]
    simp [endSequence, afterLarge, t0, p, State.afterBus, State.setSeq, State.fail]
  | false =>
  have h : writeLarge b s = seqStep (wblock (blockIndex s) b) .written
      (seqStep (wreg p.regFrz 0x00) .unfrozen (seqStep (wreg p.regNewf p.newfreq) .committed seqDone)) t1 :=
    seqStep_ok w1
  cases e2 with
  | true =>
    rw [h.trans (seqStep_error w2)]
    simp [endSequence, afterLarge, t1, t0, p, State.afterBus, State.setSeq, State.fail, blockIndex]
  | false =>
  replace h := h.trans (seqStep_ok w2)
  cases e3 with
  | true =>
    rw [h.trans (seqStep_error w3)]
    simp [endSequence, afterLarge, t2, t1, t0, p, State.afterBus, State.setSeq, State.fail, blockIndex]
  | false =>
  replace h := h.trans (seqStep_ok w3)
  cases e4 with
  | true =>
    rw [h.trans (seqStep_error w4)]
    simp [endSequence, afterLarge, t3, t2, t1, t0, p, State.afterBus, State.setSeq, State.fail, blockIndex]
  | false =>
  replace h := h.trans (seqStep_ok w4)
  rw [h]
  simp [endSequence, afterLarge, seqDone, t3, t2, t1, t0, p, State.afterBus, State.setSeq, blockIndex]

/-- Everything `write_small` can do: the answers to its error flag decide, as the table of R203 says. -/
theorem writeSmall_spec (b : Bytes6) (s : State) :
    ∃ e1 e2 e3 : Bool, Supplied s.errIn [e1, e2, e3] ∧
      (writeSmall b s).1 = (if s.freezeM then !(e1 || e2 || e3) else !e1) ∧
      endSequence (writeSmall b s) = afterSmall b s e1 e2 e3 := by
  let p := s.params
  let t0 : State := s.setSeq .idle
  cases hf : s.freezeM with
  | true =>
    let t1 : State := (t0.afterBus 1 0 (wregEvents t0.params p.regFrzm p.frzM false)).setSeq .frozen
    let t2 : State := (t1.afterBus 1 0 (wblockEvents t1.params (blockIndex s) b false)).setSeq .written
    obtain ⟨e1, h1, w1⟩ := wreg_spec p.regFrzm p.frzM t0
    obtain ⟨e2, h2, w2⟩ := wblock_spec (blockIndex s) b t1
    obtain ⟨e3, h3, w3⟩ := wreg_spec p.regFrzm 0x00 t2
    refine ⟨e1, e2, e3, ?_, ?_⟩
    · refine supplied_cons h1 (supplied_cons ?_ (supplied_cons ?_ (supplied_nil _)))
      · simpa [t1, t0, State.afterBus] using h2
      · simpa [t2, t1, t0, State.afterBus] using h3
    have h : writeSmall b s = seqStep (wreg p.regFrzm p.frzM) .frozen
        (seqStep (wblock (blockIndex s) b) .written (seqStep (wreg p.regFrzm 0x00) .unfrozen seqCommit)) t0 := by
      simp only [writeSmall, hf, if_true]; rfl
    cases e1 with
    | true =>
      rw [h.trans (seqStep_error w1)]
      simp [endSequence, afterSmall, hf, t0, p, State.afterBus, State.setSeq, State.fail]
    | false =>
    replace h := h.trans (seqStep_ok w1)
    cases e2 with
    | true =>
      rw [h.trans (seqStep_error w2)]
      simp [endSequence, afterSmall, hf, t1, t0, p, State.afterBus, State.setSeq, State.fail, blockIndex]
    | false =>
    replace h := h.trans (seqStep_ok w2)
    cases e3 with
    | true =>
      rw [h.trans (seqStep_error w3)]
      simp [endSequence, afterSmall, hf, t2, t1, t0, p, State.afterBus, State.setSeq, State.fail, blockIndex]
    | false =>
    replace h := h.trans (seqStep_ok w3)
    rw [h]
    simp [endSequence, afterSmall, hf, seqCommit, t2, t1, t0, p, State.afterBus, State.setSeq, blockIndex]
  | false =>
    obtain ⟨e1, h1, w1⟩ := wblock_spec (blockIndex s) b t0
    refine ⟨e1, (s.errIn[1]?).getD false, (s.errIn[2]?).getD false, ?_, ?_⟩
    · refine supplied_cons h1 (supplied_cons ?_ (supplied_cons ?_ (supplied_nil _)))
      · intro a h; simp at h; simp [h]
      · intro a h; simp at h; simp [h]
    have h : writeSmall b s = seqStep (wblock (blockIndex s) b) .written seqCommit t0 := by
      simp only [writeSmall, hf]; rfl
    cases e1 with
    | true =>
      rw [h.trans (seqStep_error w1)]
      simp [endSequence, afterSmall, hf, t0, State.afterBus, State.setSeq, State.fail, blockIndex]
    | false =>
      rw [h.trans (seqStep_ok w1)]
      simp [endSequence, afterSmall, hf, seqCommit, t0, State.afterBus, State.setSeq, blockIndex]

/-- Everything a pending detection can do: the answers to the error flag and the bytes received decide (R222). -/
theorem probeChip_spec (s : State) :
    ∃ (e1 e2 e3 : Bool) (d : Bytes6), Supplied s.errIn [e1, e2, e3] ∧ Supplied s.rxIn d.toList ∧
      probeChip s = afterDetect s e1 e2 e3 d := by
  obtain ⟨e1, h1, w1⟩ := wreg_spec s.params.regRcl s.params.recallBit s
  obtain ⟨e2, h2, w2⟩ := writeIndex_spec (probeIndex s.params)
    (s.afterBus 1 0 (wregEvents s.params s.params.regRcl s.params.recallBit false ++ [.settle]))
  obtain ⟨e3, d, h3, hd, w3⟩ := readSix_spec
    (s.afterBus 2 0 (wregEvents s.params s.params.regRcl s.params.recallBit false ++ [.settle] ++
      indexEvents s.params (probeIndex s.params) false))
  refine ⟨e1, e2, e3, d, ?_, by simpa [State.afterBus] using hd, ?_⟩
  · refine supplied_cons h1 (supplied_cons ?_ (supplied_cons ?_ (supplied_nil _)))
    · simpa [State.afterBus] using h2
    · simpa [State.afterBus] using h3
  cases e1 with
  | true =>
    simp only [probeChip, w1]
    simp [afterDetect, State.afterBus, State.fail]
  | false =>
  have hs : waitSettle (s.afterBus 1 0 (wregEvents s.params s.params.regRcl s.params.recallBit false)) =
      s.afterBus 1 0 (wregEvents s.params s.params.regRcl s.params.recallBit false ++ [.settle]) := by
    simp [waitSettle, emit, State.afterBus]
  cases e2 with
  | true =>
    simp only [probeChip, w1, hs, rblock, w2]
    simp [afterDetect, State.afterBus, State.fail, probeIndex]
  | false =>
  replace w2 : writeIndex (probeIndex s.params)
      (s.afterBus 1 0 (wregEvents s.params s.params.regRcl s.params.recallBit false ++ [.settle])) =
      (false, s.afterBus 2 0 (wregEvents s.params s.params.regRcl s.params.recallBit false ++ [.settle] ++
        indexEvents s.params (probeIndex s.params) false)) :=
    w2.trans (congrArg (Prod.mk false) (afterBus_afterBus s 1 0 1 0 _ _))
  cases e3 with
  | true =>
    simp only [probeChip, w1, hs, rblock]
    rw [w2]
    simp only
    rw [w3]
    simp [afterDetect, State.afterBus, State.fail, probeIndex]
  | false =>
    simp only [probeChip, w1, hs, rblock]
    rw [w2]
    simp only
    rw [w3]
    by_cases hm : d = signature s.params <;>
      simp [afterDetect, State.afterBus, resolveDetection, probeIndex, hm, addrmodeOlder, addrmodeNewer]

end Sys2Proof.Machine
end

