-- ==== Sys2Proof/Laws/PerInstr.lean ====
section
/-! SUPPORT. The per-command family: each command's byte decodes to it, and the command is well formed. -/

namespace Sys2Proof.Laws

/-- The command is well formed and its byte decodes to it (spec/30_encoding.md R91). -/
def OpcodeRoundTrip.Statement (i : Instr) : Prop :=
  i.wellFormed = true ∧ decode (encode i) = .ok i

theorem OpcodeRoundTrip.nop : OpcodeRoundTrip.Statement .nop :=
  ⟨rfl, rfl⟩

theorem OpcodeRoundTrip.mul : OpcodeRoundTrip.Statement .mul :=
  ⟨rfl, rfl⟩

theorem OpcodeRoundTrip.divr : OpcodeRoundTrip.Statement .divr :=
  ⟨rfl, rfl⟩

theorem OpcodeRoundTrip.solve : OpcodeRoundTrip.Statement .solve :=
  ⟨rfl, rfl⟩

theorem OpcodeRoundTrip.calcCmd : OpcodeRoundTrip.Statement .calcCmd :=
  ⟨rfl, rfl⟩

theorem OpcodeRoundTrip.decideCmd : OpcodeRoundTrip.Statement .decideCmd :=
  ⟨rfl, rfl⟩

theorem OpcodeRoundTrip.wrlarge : OpcodeRoundTrip.Statement .wrlarge :=
  ⟨rfl, rfl⟩

theorem OpcodeRoundTrip.wrsmall : OpcodeRoundTrip.Statement .wrsmall :=
  ⟨rfl, rfl⟩

theorem OpcodeRoundTrip.detect : OpcodeRoundTrip.Statement .detect :=
  ⟨rfl, rfl⟩

theorem OpcodeRoundTrip.setfreq : OpcodeRoundTrip.Statement .setfreq :=
  ⟨rfl, rfl⟩

theorem OpcodeRoundTrip.online : OpcodeRoundTrip.Statement .online :=
  ⟨rfl, rfl⟩

end Sys2Proof.Laws
end

