-- ==== Sys2Proof/Laws/Port.lean ====
section
/-! SUPPORT. Lemmas about the host port: byte views of registers, and which register a host address reads. -/

namespace Sys2Proof.Machine

/-! ### Byte views -/

theorem getByte_toNat {w : Nat} (v : BitVec w) (k : Nat) : (getByte v k).toNat = v.toNat / 256 ^ k % 256 := by
  unfold getByte
  rw [BitVec.toNat_ofNat, Nat.shiftRight_eq_div_pow, Nat.pow_mul]

theorem getByte_getLsbD {w : Nat} (v : BitVec w) (k i : Nat) :
    (getByte v k).getLsbD i = (decide (i < 8) && v.getLsbD (8 * k + i)) := by
  rw [getByte, BitVec.getLsbD_ofNat, Nat.testBit_shiftRight]
  rfl

theorem setByte_getLsbD {w : Nat} (v : BitVec w) (k : Nat) (b : Byte) (i : Nat) (hi : i < w) :
    (setByte v k b).getLsbD i =
      if 8 * k ≤ i ∧ i < 8 * k + 8 then b.getLsbD (i - 8 * k) else v.getLsbD i := by
  have h255 : ∀ j, Nat.testBit 255 j = decide (j < 8) := fun j => Nat.testBit_two_pow_sub_one 8 j
  simp only [setByte, BitVec.getLsbD_or, BitVec.getLsbD_and, BitVec.getLsbD_not, BitVec.getLsbD_shiftLeft,
    BitVec.getLsbD_ofNat, BitVec.getLsbD_setWidth, h255, hi, decide_true, Bool.true_and]
  have hw : i - 8 * k < w := by omega
  by_cases h1 : i < 8 * k
  · simp [h1]
  · by_cases h2 : i < 8 * k + 8
    · have h3 : i - 8 * k < 8 := by omega
      have h4 : 8 * k ≤ i := by omega
      simp [h1, h2, h3, h4, hw]
    · have h3 : ¬(i - 8 * k < 8) := by omega
      have hb : b.getLsbD (i - 8 * k) = false := BitVec.getLsbD_of_ge b _ (by omega)
      simp [h2, h3, hb]

/-- A byte just written reads back. -/
theorem getByte_setByte {w : Nat} (v : BitVec w) (k : Nat) (b : Byte) (h : 8 * k + 8 ≤ w) :
    getByte (setByte v k b) k = b := by
  apply BitVec.eq_of_getLsbD_eq
  intro i hi
  rw [getByte_getLsbD, setByte_getLsbD _ _ _ _ (by omega)]
  simp [hi]

/-- Writing one byte of a register leaves its other bytes alone. -/
theorem getByte_setByte_ne {w : Nat} (v : BitVec w) (k j : Nat) (b : Byte) (h : j ≠ k) :
    getByte (setByte v k b) j = getByte v j := by
  apply BitVec.eq_of_getLsbD_eq
  intro i hi
  rw [getByte_getLsbD, getByte_getLsbD]
  by_cases hw : 8 * j + i < w
  · rw [setByte_getLsbD _ _ _ _ hw, if_neg (by omega)]
  · rw [BitVec.getLsbD_of_ge _ _ (by omega), BitVec.getLsbD_of_ge _ _ (by omega)]

theorem getSix_setSix (x : Bytes6) (i : Nat) (v : Byte) (h : i < 6) : getSix (setSix x i v) i = v := by
  match i, h with
  | 0, _ => rfl
  | 1, _ => rfl
  | 2, _ => rfl
  | 3, _ => rfl
  | 4, _ => rfl
  | 5, _ => rfl

theorem getSix_setSix_ne (x : Bytes6) (i j : Nat) (v : Byte) (h : j ≠ i) : getSix (setSix x i v) j = getSix x j := by
  unfold setSix
  split <;> unfold getSix <;> split <;> first | rfl | (exfalso; omega)

/-! ### Addresses -/

theorem hostRead_of {s : State} {a : BitVec 7} {r : HostReg} {k : Nat} (h : locate a = some (r, k)) :
    hostRead s a = readReg s r k := by
  simp only [hostRead, h]

theorem hostWrite_of {s : State} {a : BitVec 7} {r : HostReg} {k : Nat} (h : locate a = some (r, k)) (v : Byte) :
    hostWrite s a v = writeReg s r k v := by
  simp only [hostWrite, h]

/-- The address of byte k of a register. -/
def addressOf (r : HostReg) (k : Nat) : BitVec 7 :=
  match hostMap.find? (fun row => row.reg = r) with
  | some row => BitVec.ofNat 7 (row.base + k)
  | none => 0

/-- An address is that of the register byte it names. -/
theorem addressOf_locate {a : BitVec 7} {r : HostReg} {k : Nat} (h : locate a = some (r, k)) : addressOf r k = a := by
  have key : ∀ a : BitVec 7, (match locate a with
      | some x => decide (addressOf x.1 x.2 = a)
      | none => true) = true := by decide
  simpa [h] using key a

/-- No two addresses name the same byte of the same register. -/
theorem locate_inj {a b : BitVec 7} {x : HostReg × Nat} (h : locate a = some x) (h' : locate b = some x) : a = b :=
  (addressOf_locate h).symm.trans (addressOf_locate h')

/-- Two states agree outside some ranges of addresses if they agree on every register byte located outside them. -/
theorem sameBytesExcept_of (s t : State) (l : List (Nat × Nat))
    (h : ∀ (a : BitVec 7) (r : HostReg) (k : Nat), (∀ x ∈ l, ¬(x.1 ≤ a.toNat ∧ a.toNat < x.1 + x.2)) →
      locate a = some (r, k) → readReg t r k = readReg s r k) : SameBytesExcept s t l := by
  intro a ha
  unfold hostRead
  cases hl : locate a with
  | none => rfl
  | some x => exact h a x.1 x.2 ha hl

/-- Whether the ranges cover every byte of the listed registers. -/
def regsInside (l : List (Nat × Nat)) (rs : List HostReg) : Bool :=
  (List.range 128).all fun a => (l.any fun r => r.1 ≤ a && a < r.1 + r.2) ||
    (match locate (BitVec.ofNat 7 a) with
     | none => true
     | some (r, _) => !rs.contains r)

/-- An address outside ranges that cover some registers reads none of them. -/
theorem not_mem_of_regsInside {l : List (Nat × Nat)} {rs : List HostReg} (h : regsInside l rs = true) (a : BitVec 7)
    (r : HostReg) (k : Nat) (ha : ∀ x ∈ l, ¬(x.1 ≤ a.toNat ∧ a.toNat < x.1 + x.2)) (hl : locate a = some (r, k)) :
    r ∉ rs := by
  have h1 := (List.all_eq_true.mp h) a.toNat (by simpa using a.isLt)
  simp only [BitVec.ofNat_toNat, BitVec.setWidth_eq, hl] at h1
  intro hr
  simp [hr] at h1
  obtain ⟨x, y, h2, h3, h4⟩ := h1
  exact ha (x, y) h2 ⟨h3, h4⟩

end Sys2Proof.Machine
end

