-- ==== Sys2Proof/Laws/Solver.lean ====
section
/-! SUPPORT. What the solver's operations can do (spec/41_divider_solver.md R141 to R144), each said once. -/

namespace Sys2Proof.Machine

/-- Division rounded up, as an adjunction. -/
theorem ceilDiv_le_iff {a b c : Nat} (hb : 0 < b) : ceilDiv a b ≤ c ↔ a ≤ b * c := by
  unfold ceilDiv
  rw [Nat.div_le_iff_le_mul hb, Nat.mul_comm c b]
  omega

/-- A word other than 0 is a positive number. -/
theorem toNat_pos_of_ne_zero {w : Nat} {f : BitVec w} (h : f ≠ 0) : 0 < f.toNat := by
  rcases Nat.eq_zero_or_pos f.toNat with h1 | h1
  · exact absurd (BitVec.eq_of_toNat_eq (by simpa using h1)) h
  · exact h1

/-- What `keepBest` keeps: the old best unless the new candidate has a strictly smaller N. -/
theorem keepBest_some {b c : Option Candidate} {x : Candidate} (h : keepBest b c = some x) :
    (b = some x ∧ ∀ y, c = some y → x.n ≤ y.n) ∨ (c = some x ∧ ∀ y, b = some y → x.n < y.n) := by
  cases b <;> cases c <;> simp_all [keepBest]
  rename_i b c
  by_cases hlt : c.n < b.n <;> simp_all

theorem keepBest_none {b c : Option Candidate} : keepBest b c = none ↔ b = none ∧ c = none := by
  cases b <;> cases c <;> simp [keepBest]
  split <;> simp

/-- What a candidate is. -/
theorem candidate_some {p : Params} {g : BitVec 2} {est hs : Nat} {x : Candidate}
    (h : candidate p g est hs = some x) :
    x = ⟨hs, candidateN1 est hs, hs * candidateN1 est hs⟩ ∧ candidateN1 est hs ≤ 128 ∧
      forbidden p g (candidateN1 est hs) hs = false := by
  unfold candidate at h
  simp only at h
  split at h
  · cases h
  · split at h
    · cases h
    · cases h
      exact ⟨rfl, by omega, by simp_all⟩

/-- When there is no candidate. -/
theorem candidate_none {p : Params} {g : BitVec 2} {est hs : Nat} :
    candidate p g est hs = none ↔
      128 < candidateN1 est hs ∨ forbidden p g (candidateN1 est hs) hs = true := by
  unfold candidate
  simp only
  split
  · simp_all
  · split <;> simp_all

/-- The search over a list of HS_DIV values finds nothing exactly when no value has a candidate. -/
theorem foldBest_none (p : Params) (g : BitVec 2) (est : Nat) (l : List Nat) (b : Option Candidate) :
    l.foldl (fun best hs => keepBest best (candidate p g est hs)) b = none ↔
      b = none ∧ ∀ hs ∈ l, candidate p g est hs = none := by
  induction l generalizing b with
  | nil => simp
  | cons a l ih => simp [ih, keepBest_none, and_assoc]

/-- What the search over a list of HS_DIV values finds is the start or a candidate, and no other has a smaller N. -/
theorem foldBest_some (p : Params) (g : BitVec 2) (est : Nat) (l : List Nat) (b : Option Candidate) (x : Candidate)
    (h : l.foldl (fun best hs => keepBest best (candidate p g est hs)) b = some x) :
    (b = some x ∨ ∃ hs ∈ l, candidate p g est hs = some x) ∧ (∀ y, b = some y → x.n ≤ y.n) ∧
      (∀ hs ∈ l, ∀ y, candidate p g est hs = some y → x.n ≤ y.n) := by
  induction l generalizing b with
  | nil => simp_all
  | cons a l ih =>
    obtain ⟨h1, h2, h3⟩ := ih _ h
    cases hk : keepBest b (candidate p g est a) with
    | none =>
      rw [keepBest_none] at hk
      simp only [hk.1, hk.2] at h1
      refine ⟨?_, by simp [hk.1], ?_⟩
      · rcases h1 with h1 | ⟨hs, h4, h5⟩
        · simp [keepBest] at h1
        · exact .inr ⟨hs, by simp [h4], h5⟩
      · intro hs hm y hy
        simp at hm
        rcases hm with rfl | hm
        · simp [hk.2] at hy
        · exact h3 hs hm y hy
    | some z =>
      have hz := h2 z hk
      refine ⟨?_, ?_, ?_⟩
      · rcases h1 with h1 | ⟨hs, h4, h5⟩
        · rcases keepBest_some h1 with ⟨h6, _⟩ | ⟨h6, _⟩
          · exact .inl h6
          · exact .inr ⟨a, by simp, h6⟩
        · exact .inr ⟨hs, by simp [h4], h5⟩
      · intro y hy
        rcases keepBest_some hk with ⟨h6, _⟩ | ⟨h6, h7⟩
        · rw [h6] at hy; cases hy; exact hz
        · exact le_trans hz (le_of_lt (h7 y hy))
      · intro hs hm y hy
        simp at hm
        rcases hm with rfl | hm
        · rcases keepBest_some hk with ⟨h6, h7⟩ | ⟨h6, h7⟩
          · exact le_trans hz (h7 y hy)
          · rw [h6] at hy; cases hy; exact hz
        · exact h3 hs hm y hy

/-- What a result of the solver is: the packed best candidate, which is one of the six (R144). -/
theorem solveDivider_some {p : Params} {f : BitVec 32} {g : BitVec 2} {d : Divider}
    (h : solveDivider p f g = some d) :
    f ≠ 0 ∧ ∃ hs ∈ hsOrder, d.hs.toNat = hs ∧ d.n1.toNat = candidateN1 (n0 p f) hs ∧
      d.n.toNat = hs * candidateN1 (n0 p f) hs ∧ candidateN1 (n0 p f) hs ≤ 128 ∧
      forbidden p g (candidateN1 (n0 p f) hs) hs = false ∧
      bestCandidate p g (n0 p f) = some ⟨hs, candidateN1 (n0 p f) hs, hs * candidateN1 (n0 p f) hs⟩ := by
  unfold solveDivider at h
  split at h
  · cases h
  · rename_i hf
    refine ⟨hf, ?_⟩
    split at h
    · cases h
    · rename_i c hc
      cases h
      have h1 := foldBest_some p g (n0 p f) hsOrder none c hc
      obtain ⟨hs, hm, hcand⟩ := h1.1.resolve_left (by simp)
      obtain ⟨rfl, h2, h3⟩ := candidate_some hcand
      have hb : hs ≤ 11 := by simp [hsOrder] at hm; omega
      refine ⟨hs, hm, ?_, ?_, ?_, h2, h3, hc⟩
      · simp; omega
      · simp; omega
      · simp
        have : hs * candidateN1 (n0 p f) hs ≤ 11 * 128 := Nat.mul_le_mul hb h2
        omega

end Sys2Proof.Machine
end

