-- ==== Sys2Proof/Laws/TuningWord.lean ====
section
/-! SUPPORT. The outcomes of the calculator and of the decision, and which fields the outcome tables leave alone. -/

namespace Sys2Proof.Machine

/-- Everything the calculator can answer, in the order of its tests (spec/42_tuning_word.md R167). -/
theorem calcImage_cases (p : Params) (f : BitVec 32) (d : Divider) (x : BitVec 32) :
    (p.dcoMax8.toNat < est8 (mul16x32 d.n f) ∧ calcImage p f d x = .error .dco) ∨
    (¬p.dcoMax8.toNat < est8 (mul16x32 d.n f) ∧ (x = 0 ∨ 2 ^ 38 ≤ divround p (mul16x32 d.n f) x) ∧
      calcImage p f d x = .error .cfg) ∨
    (¬p.dcoMax8.toNat < est8 (mul16x32 d.n f) ∧ x ≠ 0 ∧ divround p (mul16x32 d.n f) x < 2 ^ 38 ∧
      calcImage p f d x = .ok (pack d.hs.toNat d.n1.toNat (divround p (mul16x32 d.n f) x))) := by
  unfold calcImage
  simp only
  split
  · exact .inl ⟨by assumption, rfl⟩
  · right
    split
    · exact .inl ⟨by assumption, .inl (by assumption), rfl⟩
    · by_cases h3 : 2 ^ 38 ≤ divround p (mul16x32 d.n f) x
      · left; rw [if_pos h3]; exact ⟨by assumption, .inr h3, rfl⟩
      · right; rw [if_neg h3]; exact ⟨by assumption, by assumption, by omega, rfl⟩

/-- The decision as one condition (spec/43_smooth_tune.md R181). -/
theorem smallChange_iff (f c : BitVec 32) (v : Bool) (ppm : BitVec 16) :
    smallChange f c v ppm = true ↔
      ppm ≠ 0 ∧ v = true ∧ absdiff f c * 15 / 32 ≤ c.toNat / 2 ^ 21 * ppm.toNat := by
  unfold smallChange intMHz
  split
  · simp_all
  · split <;> simp_all

/-- The four fields the outcome table of `write_large` writes. -/
theorem afterLarge_frame (b : Bytes6) (s : State) (e1 e2 e3 e4 : Bool) :
    afterLarge b s e1 e2 e3 e4 =
      { s with err := (afterLarge b s e1 e2 e3 e4).err, seq := (afterLarge b s e1 e2 e3 e4).seq,
               errIn := (afterLarge b s e1 e2 e3 e4).errIn, trace := (afterLarge b s e1 e2 e3 e4).trace } := by
  unfold afterLarge
  cases e1 <;> cases e2 <;> cases e3 <;> cases e4 <;> rfl

/-- The four fields the outcome table of `write_small` writes. -/
theorem afterSmall_frame (b : Bytes6) (s : State) (e1 e2 e3 : Bool) :
    afterSmall b s e1 e2 e3 =
      { s with err := (afterSmall b s e1 e2 e3).err, seq := (afterSmall b s e1 e2 e3).seq,
               errIn := (afterSmall b s e1 e2 e3).errIn, trace := (afterSmall b s e1 e2 e3).trace } := by
  unfold afterSmall
  cases s.freezeM <;> cases e1 <;> cases e2 <;> cases e3 <;> rfl

/-- The seven fields the outcomes of the detection write. -/
theorem afterDetect_frame (s : State) (d : Bytes6) (e1 e2 e3 : Bool) :
    afterDetect s e1 e2 e3 d =
      { s with err := (afterDetect s e1 e2 e3 d).err, rbuf := (afterDetect s e1 e2 e3 d).rbuf,
               addrmode := (afterDetect s e1 e2 e3 d).addrmode, result := (afterDetect s e1 e2 e3 d).result,
               errIn := (afterDetect s e1 e2 e3 d).errIn, rxIn := (afterDetect s e1 e2 e3 d).rxIn,
               trace := (afterDetect s e1 e2 e3 d).trace } := by
  unfold afterDetect
  cases e1 <;> cases e2 <;> cases e3 <;> rfl

end Sys2Proof.Machine
end

