-- ==== Sys2Proof/Tests/Slice0.lean ====
section
/-! SUPPORT. The model's own tests. Expected values are those of spec/95_test_vectors.md, or words written out by hand from
spec/30_encoding.md. Then, for each statement with hypotheses, a concrete state and operands that meet them. -/

open Sys2Proof Sys2Proof.Machine

section

-- One theorem at a time: each `decide +kernel` waits for the ones before it, on a thread of its own.
set_option Elab.async false

namespace Sys2Proof.Tests

/-- Some fields of the next state; none after a stop. -/
def view {α : Type} (f : State → α) : Host.Outcome State Fault Refusal → Option α
  | .next t => some (f t)
  | .fault _ => none
  | .refused _ => none

/-- The common start of spec/95_test_vectors.md section 2.8: the crystal, PPM = 3500, and no bus errors. -/
def start : State :=
  { State.reset with freq := 0x01400000, xtal := 0x7248F5C2, ppm := 3500, errIn := [false, false, false, false] }

/-- "after 14" of spec/95_test_vectors.md section 2.8, with FREQ = 14.000050 MHz written. -/
def after14 : State :=
  { start with freq := 0x01C00068, div := ⟨6, 58, 348⟩, cdiv := ⟨6, 58, 348⟩, img := ⟨0x4E, 0x42, 0xAA, 0x15, 0x92, 0x46⟩,
               center := 0x01C00000, centerValid := true, seq := .committed }

/-- "after 14" with the "M" freeze on. -/
def freezing14 : State :=
  { after14 with addrmode := 2 }

/-- The state of scenario C (program P3 of spec/95_test_vectors.md): the block write of the next large change fails. -/
def scenarioC : State :=
  { after14 with freq := 0x01400000, errIn := [false, true] }

/-- A frequency just above the DCO limit, near a valid center just below it. -/
def tooFast : State :=
  { after14 with freq := 0xB1800000, center := 0xB17FFFFF, cdiv := ⟨4, 1, 4⟩ }

/-- Supplied tables and signature: a hypothesis of spec/95_test_vectors.md (SA), not the document's values. -/
def tables : Params :=
  { Params.default with
    forbid := some ⟨[(54, 9)], [(46, 11), (54, 9), (70, 7), (82, 6), (98, 5), (122, 4)], (122, 4)⟩
    signature := some ⟨1, 2, 3, 4, 5, 6⟩ }

/-- A detection is pending and the chip's answers are supplied. -/
def pending (d : Bytes6) : State :=
  { start with params := tables, addrmode := 4, rxIn := d.toList }

/-- One host event on the start state. -/
def hosted (ev : HostEvent) : State :=
  { start with hostIn := [ev] }

/-! ### WellFormed refuses -/

theorem test_wellformed_refuses_dco_min_zero :
    ¬Params.WellFormed { Params.default with dcoMinMHz := 0 } := by
  decide

theorem test_wellformed_refuses_dco_min_too_large :
    ¬Params.WellFormed { Params.default with dcoMinMHz := 8192 } := by
  decide

theorem test_wellformed_refuses_rfreq_frac_too_large :
    ¬Params.WellFormed { Params.default with rfreqFrac := 38 } := by
  decide

theorem test_wellformed_refuses_equal_indices :
    ¬Params.WellFormed { Params.default with idx1 := 7 } := by
  decide

theorem test_wellformed_accepts_defaults :
    Params.WellFormed Params.default := by
  decide

theorem test_wellformed_accepts_limits :
    Params.WellFormed { Params.default with dcoMinMHz := 8191, rfreqFrac := 37 } := by
  decide

/-! ### Decoding: every byte written out from spec/30_encoding.md R91 -/

theorem test_decode_nop :
    decode 0b00000000 = .ok .nop ∧ decodeTableWord 8 0b00000000 = some .nop := by
  decide

theorem test_decode_mul :
    decode 0b00000001 = .ok .mul ∧ decodeTableWord 8 0b00000001 = some .mul := by
  decide

theorem test_decode_divr :
    decode 0b00000010 = .ok .divr ∧ decodeTableWord 8 0b00000010 = some .divr := by
  decide

theorem test_decode_solve :
    decode 0b00010000 = .ok .solve ∧ decodeTableWord 8 0b00010000 = some .solve := by
  decide

theorem test_decode_calcCmd :
    decode 0b00010001 = .ok .calcCmd ∧ decodeTableWord 8 0b00010001 = some .calcCmd := by
  decide

theorem test_decode_decideCmd :
    decode 0b00010010 = .ok .decideCmd ∧ decodeTableWord 8 0b00010010 = some .decideCmd := by
  decide

theorem test_decode_wrlarge :
    decode 0b00100000 = .ok .wrlarge ∧ decodeTableWord 8 0b00100000 = some .wrlarge := by
  decide

theorem test_decode_wrsmall :
    decode 0b00100001 = .ok .wrsmall ∧ decodeTableWord 8 0b00100001 = some .wrsmall := by
  decide

theorem test_decode_detect :
    decode 0b00100010 = .ok .detect ∧ decodeTableWord 8 0b00100010 = some .detect := by
  decide

theorem test_decode_setfreq :
    decode 0b00110000 = .ok .setfreq ∧ decodeTableWord 8 0b00110000 = some .setfreq := by
  decide

theorem test_decode_online :
    decode 0b00110001 = .ok .online ∧ decodeTableWord 8 0b00110001 = some .online := by
  decide

theorem test_decode_refuses_neighbours :
    (decode 0x03).isOk = false ∧ (decode 0x13).isOk = false ∧ (decode 0x23).isOk = false ∧
      (decode 0x32).isOk = false ∧ (decode 0xFF).isOk = false := by
  decide

theorem test_encode_all :
    [Instr.nop, .mul, .divr, .solve, .calcCmd, .decideCmd, .wrlarge, .wrsmall, .detect, .setfreq, .online].map encode =
      [0x00, 0x01, 0x02, 0x10, 0x11, 0x12, 0x20, 0x21, 0x22, 0x30, 0x31] := by
  decide

/-! ### Host port -/

/-- byte 3 of XTAL is at 0x07 (spec/20_memory.md R66) -/
theorem test_host_write_is_little_endian :
    view (fun t => (t.xtal, hostRead t 0x07)) (step (hosted (.wr 0x07 0x11))) = some (0x1148F5C2, 0x11) := by
  decide +kernel

/-- GRADE stores two bits (spec/20_memory.md R62) -/
theorem test_host_write_narrow :
    view (fun t => (t.grade, hostRead t 0x0A)) (step (hosted (.wr 0x0A 0xFE))) = some (2, 2) := by
  decide +kernel

/-- SEQ is read-only -/
theorem test_host_write_read_only :
    view (fun t => hostRead t 0x3E) (step { after14 with hostIn := [.wr 0x3E 0xFF] }) = some 4 := by
  decide +kernel

/-- low byte of DIV_N = 348 (program P2) -/
theorem test_host_read :
    view (fun t => t.hostOut) (step { after14 with hostIn := [.rd 0x2A] }) = some [0x5C] := by
  decide +kernel

/-- program P5 -/
theorem test_illegal_byte :
    view (fun t => (t.err, t.trace)) (step (hosted (.wr 0x3F 0x7F))) = some (.illegal, []) := by
  decide +kernel

theorem test_reset_event :
    view (fun t => (t.freq, t.centerValid, t.seq)) (step { after14 with hostIn := [.reset] }) = some (0, false, .idle) := by
  decide +kernel

/-- the bytes of the command are fetched from the host event -/
theorem test_fetch_word :
    view (fun t => t.prod) (step (({ start with ma := 486, mb := 0x01400000 } : State).withFetchWord 8 0x01)) =
      some 0x00025F800000 := by
  decide +kernel

/-! ### NOP, MUL, DIVR (spec/95_test_vectors.md 2.1) -/

theorem test_nop_clears_error :
    view (fun t => (t.err, t.seq)) (exec .nop { after14 with err := .bus }) = some (.ok, .committed) := by
  decide +kernel

theorem test_mul_largest :
    view (fun t => t.prod) (exec .mul { start with ma := 0xFFFF, mb := 0xFFFFFFFF }) = some 0xFFFEFFFF0001 := by
  decide +kernel

theorem test_mul_zero :
    view (fun t => (t.prod, t.err)) (exec .mul { start with ma := 0, mb := 5, prod := 7 }) = some (0, .ok) := by
  decide +kernel

theorem test_divr_rounds_up :
    view (fun t => (t.quot, t.qovf)) (exec .divr { start with prod := 1, dvs := 3 }) = some (0x2AAAAAAB, false) := by
  decide +kernel

theorem test_divr_overflow :
    view (fun t => (t.quot, t.qovf)) (exec .divr { start with prod := 0xFFFFFFFFFFFF, dvs := 0xFFFFFFFF }) =
      some (0x8000, true) := by
  decide +kernel

theorem test_divr_serial_agrees :
    divroundSerial Params.default 0xFFFFFFFFFFFF 0xFFFFFFFF = 0x800000008000 ∧
      mulSerial 0x0580 0x006E3A2F 32 = 0x00025E400280 := by
  decide +kernel

/-! ### SOLVE (2.2) -/

theorem test_solve_tie_takes_higher_hs :
    view (fun t => t.div) (exec .solve { start with freq := 0x01E00000 }) = some ⟨9, 36, 324⟩ := by
  decide +kernel

theorem test_solve_lowest :
    view (fun t => t.div) (exec .solve { start with freq := 0x006E3A2F }) = some ⟨11, 128, 1408⟩ ∧
      view (fun t => t.err) (exec .solve { start with freq := 0x006E3A2E }) = some .noDiv := by
  decide +kernel

/-- the tables of SA; grade D is grade C with (122, 4) toggled (spec/00_scope.md R9) -/
theorem test_solve_forbidden_pair :
    solveDivider tables 0x01400000 1 = some ⟨4, 122, 488⟩ ∧ solveDivider tables 0x01400000 2 = none ∧
      solveDivider tables 0x01400000 3 = some ⟨4, 122, 488⟩ := by
  decide +kernel

/-! ### pack, unpack, CALC (2.3, 2.4) -/

theorem test_pack :
    pack 9 54 0x2A8677D1B = ⟨0xAD, 0x42, 0xA8, 0x67, 0x7D, 0x1B⟩ ∧ pack 11 128 0x3FFFFFFFFF = ⟨0xFF, 0xFF, 0xFF, 0xFF, 0xFF, 0xFF⟩ ∧
      pack 7 2 0x155555555 = ⟨0x60, 0x41, 0x55, 0x55, 0x55, 0x55⟩ := by
  decide +kernel

theorem test_unpack :
    unpack ⟨0xC0, 0, 0, 0, 0, 0⟩ = ⟨10, 1, 0⟩ ∧ unpack ⟨0x4E, 0x42, 0xAA, 0x15, 0x92, 0x46⟩ = ⟨6, 58, 0x2AA159246⟩ := by
  decide +kernel

theorem test_calc_image :
    view (fun t => t.img) (exec .calcCmd { start with div := ⟨9, 54, 486⟩ }) = some ⟨0xAD, 0x42, 0xA8, 0x67, 0x7D, 0x1B⟩ := by
  decide +kernel

theorem test_calc_errors :
    view (fun t => t.err) (exec .calcCmd { start with freq := 0xB1800000, xtal := 0, div := ⟨4, 1, 4⟩ }) = some .dco ∧
      view (fun t => t.err) (exec .calcCmd { start with freq := 0xB17FFFFF, xtal := 0x058BFFFF, div := ⟨4, 1, 4⟩ }) = some .cfg ∧
      view (fun t => t.img) (exec .calcCmd { start with freq := 0xB17FFFFF, xtal := 0x058C0000, div := ⟨4, 1, 4⟩ }) =
        some ⟨0x00, 0x3F, 0xFF, 0xFF, 0xFF, 0xA4⟩ := by
  decide +kernel

/-! ### DECIDE (2.5) -/

theorem test_decide_edges :
    view (fun t => t.result) (exec .decideCmd { after14 with freq := 0x01C19857 }) = some true ∧
      view (fun t => t.result) (exec .decideCmd { after14 with freq := 0x01C19858 }) = some false ∧
      view (fun t => t.result) (exec .decideCmd { after14 with freq := 0x01BE67A9 }) = some true ∧
      view (fun t => t.result) (exec .decideCmd { after14 with freq := 0x01BE67A8 }) = some false := by
  decide +kernel

theorem test_decide_disabled :
    view (fun t => t.result) (exec .decideCmd { after14 with ppm := 0 }) = some false ∧
      view (fun t => t.result) (exec .decideCmd { after14 with centerValid := false }) = some false := by
  decide +kernel

/-! ### WRLARGE, WRSMALL (2.6) -/

theorem test_wrlarge_trace :
    view (fun t => t.trace) (exec .wrlarge after14) = some
      [.start 0x55 .write, .send 137, .send 0x10, .stop, .err false,
       .start 0x55 .write, .send 7, .send 0x4E, .send 0x42, .send 0xAA, .send 0x15, .send 0x92, .send 0x46, .stop, .err false,
       .start 0x55 .write, .send 137, .send 0x00, .stop, .err false,
       .start 0x55 .write, .send 135, .send 0x40, .stop, .err false] := by
  decide +kernel

theorem test_wrlarge_failures :
    [[true], [false, true], [false, false, true], [false, false, false, true]].map (fun es =>
      view (fun t => (t.seq, t.err)) (exec .wrlarge { after14 with errIn := es })) =
      [some (.idle, .bus), some (.frozen, .bus), some (.written, .bus), some (.unfrozen, .bus)] := by
  decide +kernel

theorem test_wrsmall_trace :
    view (fun t => (t.seq, t.trace)) (exec .wrsmall { after14 with addrmode := 3 }) = some (.committed,
      [.start 0x55 .write, .send 135, .send 0x20, .stop, .err false,
       .start 0x55 .write, .send 13, .send 0x4E, .send 0x42, .send 0xAA, .send 0x15, .send 0x92, .send 0x46, .stop, .err false,
       .start 0x55 .write, .send 135, .send 0x00, .stop, .err false]) := by
  decide +kernel

theorem test_wrsmall_failures :
    view (fun t => (t.seq, t.err)) (exec .wrsmall { after14 with errIn := [true] }) = some (.idle, .bus) ∧
      view (fun t => (t.seq, t.err)) (exec .wrsmall { after14 with addrmode := 2, errIn := [false, true] }) =
        some (.frozen, .bus) := by
  decide +kernel

/-! ### DETECT (2.7) -/

theorem test_detect_match :
    view (fun t => (t.addrmode, t.result, t.rbuf)) (exec .detect (pending ⟨1, 2, 3, 4, 5, 6⟩)) =
      some (0, true, ⟨1, 2, 3, 4, 5, 6⟩) := by
  decide +kernel

theorem test_detect_mismatch :
    view (fun t => (t.addrmode, t.result, t.trace)) (exec .detect (pending ⟨1, 2, 3, 4, 5, 7⟩)) = some (3, false,
      [.start 0x55 .write, .send 135, .send 0x01, .stop, .err false, .settle,
       .start 0x55 .write, .send 7, .stop, .err false,
       .start 0x55 .read, .recv .ack 1, .recv .ack 2, .recv .ack 3, .recv .ack 4, .recv .ack 5, .recv .nack 7, .stop,
       .err false]) := by
  decide +kernel

/-! ### SETFREQ, ONLINE (2.8) -/

theorem test_setfreq_large :
    view (fun t => (t.err, t.seq, t.cdiv, t.center, t.centerValid)) (exec .setfreq start) =
        some (.ok, .committed, ⟨9, 54, 486⟩, 0x01400000, true) ∧
      view (fun t => t.img) (exec .setfreq start) = some ⟨0xAD, 0x42, 0xA8, 0x67, 0x7D, 0x1B⟩ := by
  decide +kernel

theorem test_setfreq_small :
    view (fun t => (t.err, t.path, t.img, t.center, t.trace)) (exec .setfreq after14) =
      some (.ok, true, ⟨0x4E, 0x42, 0xAA, 0x16, 0x30, 0x9E⟩, 0x01C00000,
        [.start 0x55 .write, .send 7, .send 0x4E, .send 0x42, .send 0xAA, .send 0x16, .send 0x30, .send 0x9E, .stop,
         .err false]) := by
  decide +kernel

theorem test_online :
    view (fun t => (t.centerValid, t.center, t.cdiv, t.seq)) (exec .online after14) =
      some (false, 0x01C00000, ⟨6, 58, 348⟩, .committed) := by
  decide +kernel

/-! ### Witnesses: states and operands that meet the hypotheses of the statements -/

theorem witness_DecodeExactlyTheEncodings :
    ∀ i ∈ [Instr.nop, .mul, .divr, .solve, .calcCmd, .decideCmd, .wrlarge, .wrsmall, .detect, .setfreq, .online],
      (0x03 : Byte) ≠ encode i := by
  decide

theorem witness_StepRunsDecodedCommand :
    (hosted (.wr 0x3F 0x31)).hostIn = .wr 0x3F 0x31 :: [] ∧ decode 0x31 = .ok .online ∧ Instr.online.wellFormed = true ∧
      decodeTableWord 8 0x31 = some .online := by
  decide

theorem witness_IllegalByteOnlySetsErr :
    (hosted (.wr 0x3F 0x32)).hostIn = .wr 0x3F 0x32 :: [] ∧
      (0x32 : Byte) ∉ ([0x00, 0x01, 0x02, 0x10, 0x11, 0x12, 0x20, 0x21, 0x22, 0x30, 0x31] : List Byte) := by
  decide

theorem witness_StepAlwaysAnswers :
    start.hostIn = [] := by
  decide

theorem witness_HostReadChangesNothing :
    (hosted (.rd 0x7F)).hostIn = .rd 0x7F :: [] := by
  decide

/-- each clause at the boundaries of its range -/
theorem witness_HostWriteThenReadBack :
    ∀ a ∈ ([0x00, 0x09, 0x0C, 0x0D, 0x10, 0x1D, 0x30, 0x35, 0x0A, 0x0B, 0x0E, 0x0F, 0x1E, 0x2F, 0x36, 0x40, 0x7F] : List (BitVec 7)),
      (hosted (.wr a 0xA5)).hostIn = .wr a 0xA5 :: [] ∧ a ≠ 0x3F := by
  decide

theorem witness_ResetEventClearsRegisters :
    (hosted .reset).hostIn = .reset :: [] := by
  decide

/-- also for RestoringDividerComputesDivround -/
theorem witness_DivroundRoundsToNearest :
    (3 : BitVec 32) ≠ 0 ∧ 28 ≤ Params.default.rfreqFrac := by
  decide

theorem witness_DivrDividesOrReportsCfg :
    ({ start with dvs := 0 } : State).dvs = 0 ∧ ({ start with dvs := 1 } : State).dvs ≠ 0 := by
  decide

theorem witness_SolveWritesDividerOrReportsNoDiv :
    solveDivider start.params start.freq start.grade = some ⟨9, 54, 486⟩ ∧
      solveDivider start.params 0x006E3A2E start.grade = none := by
  decide +kernel

/-- also for GradeASolvesExactlyReachable -/
theorem witness_SolverResultIsLegal :
    1 ≤ Params.default.dcoMinMHz ∧ solveDivider Params.default 0x006E3A2F 0 = some ⟨11, 128, 1408⟩ := by
  decide +kernel

theorem witness_CandidateIsLeastEvenDivider :
    (1 : BitVec 32) ≠ 0 ∧ 1 ≤ Params.default.dcoMinMHz ∧ 11 ∈ ([11, 9, 7, 6, 5, 4] : List Nat) ∧
      [4, 1] = [candidateN1 14 4, candidateN1 11 11] := by
  decide

theorem witness_GradeASolvesExactlyReachable :
    (solveDivider tables 0x01400000 3).isSome = true := by
  decide +kernel

theorem witness_NoDivExactlyWhenExhausted :
    start.auto = false ∧ smallChange start.freq start.center start.centerValid start.ppm = false ∧
      view (fun t => t.err) (exec .solve { start with freq := 0 }) = some .noDiv ∧
      view (fun t => t.err) (exec .setfreq { start with freq := 0x006E3A2E }) = some .noDiv := by
  decide +kernel

/-- also for PackUnpackRoundTrip -/
theorem witness_ImageLayoutIsBitExact :
    ∀ x ∈ [(4, 1, 0), (11, 128, 2 ^ 38 - 1)], 4 ≤ x.1 ∧ x.1 ≤ 11 ∧ 1 ≤ x.2.1 ∧ x.2.1 ≤ 128 ∧ x.2.2 < 2 ^ 38 := by
  decide +kernel

/-- also for TuningWordIsAccurate: the divider (4, 1, 4) is in its ranges, at their lower ends -/
theorem witness_RangeCheckIsExact :
    (calcImage Params.default 0xB17FFFFF ⟨4, 1, 4⟩ 0x7248F5C2).toOption = some ⟨0x00, 0x03, 0x1B, 0x34, 0x78, 0xEA⟩ ∧
      (calcImage Params.default 0xB1800000 ⟨4, 1, 4⟩ 0x7248F5C2).toOption = none := by
  decide +kernel

/-- the five clauses, the last four at their boundaries -/
theorem witness_CalcComputesImageOrReportsError :
    [(⟨0, 0, 0⟩, 0x01400000, 1), (⟨4, 1, 4⟩, 0xB1800000, 1), (⟨4, 1, 4⟩, 0xB17FFFFF, 0), (⟨4, 1, 4⟩, 0xB17FFFFF, 0x058BFFFF),
      (⟨4, 1, 4⟩, 0xB17FFFFF, 0x058C0000)].map (fun x : Divider × BitVec 32 × BitVec 32 =>
        let n := x.1.n.toNat * x.2.1.toNat
        let r := (2 * (n * 2 ^ 31) + x.2.2.toNat) / (2 * x.2.2.toNat)
        [decide (x.1.hs = 0), decide ((709 + 1) * 2 ^ 24 ≤ n), decide (x.2.2 = 0), decide (2 ^ 38 ≤ r)]) =
      [[true, false, false, false], [false, true, false, true], [false, false, true, false], [false, false, false, true],
       [false, false, false, false]] := by
  decide +kernel

theorem witness_CalcCompletes :
    (⟨4, 1, 4⟩ : Divider).Legal ∧ (0x058C0000 : BitVec 32) ≠ 0 ∧ 4 * 0xB17FFFFF < (709 + 1) * 2 ^ 24 ∧
      (2 * (4 * 0xB17FFFFF * 2 ^ 31) + 0x058C0000) / (2 * 0x058C0000) < 2 ^ 38 := by
  decide +kernel

theorem witness_SmoothTuneDecisionProperties :
    (0x01C00000 : BitVec 32).toNat + 104535 < 2 ^ 32 ∧ 104535 ≤ (0x01C00000 : BitVec 32).toNat ∧ 0 ≤ 104535 ∧
      smallChange (BitVec.ofNat 32 ((0x01C00000 : BitVec 32).toNat + 104535)) 0x01C00000 true 3500 = true ∧
      (3500 : BitVec 16) ≠ 0 ∧ (0x001FFFFF : BitVec 32).toNat < 2 ^ 21 := by
  decide +kernel

/-- also for WrsmallFollowsOutcomeTable, DetectFollowsProbeOutcomes, PendingDetectionRefusesWrites -/
theorem witness_WrlargeFollowsOutcomeTable :
    (pending Bytes6.zero).auto = true ∧ start.auto = false := by
  decide

theorem witness_WrlargeCommitsWithoutBusErrors :
    start.auto = false ∧ start.errIn = false :: false :: false :: false :: [] := by
  decide

theorem witness_WrsmallCommitsWithoutBusErrors :
    start.auto = false ∧ start.addrmode.getLsbD 1 = false ∧ start.errIn = false :: [false, false, false] ∧
      ({ start with addrmode := 2 } : State).auto = false ∧
      ({ start with addrmode := 2 } : State).addrmode.getLsbD 1 = true ∧ start.errIn = false :: false :: false :: [false] := by
  decide

theorem witness_DetectResolvesAddressing :
    (pending ⟨1, 2, 3, 4, 5, 6⟩).auto = true ∧ (pending ⟨1, 2, 3, 4, 5, 6⟩).errIn = false :: false :: false :: [false] ∧
      (pending ⟨1, 2, 3, 4, 5, 6⟩).rxIn = Bytes6.toList ⟨1, 2, 3, 4, 5, 6⟩ ++ [] ∧
      tables.signature = some ⟨1, 2, 3, 4, 5, 6⟩ := by
  decide

theorem witness_SetfreqLargePathOutcomes :
    start.auto = false ∧ smallChange start.freq start.center start.centerValid start.ppm = false ∧
      solveDivider start.params 0x006E3A2E start.grade = none ∧
      solveDivider start.params 0xBB800000 start.grade = some ⟨4, 1, 4⟩ ∧
      (calcImage start.params 0xBB800000 ⟨4, 1, 4⟩ start.xtal).toOption = none ∧
      solveDivider start.params start.freq start.grade = some ⟨9, 54, 486⟩ ∧
      (calcImage start.params start.freq ⟨9, 54, 486⟩ start.xtal).toOption = some ⟨0xAD, 0x42, 0xA8, 0x67, 0x7D, 0x1B⟩ := by
  decide +kernel

theorem witness_SetfreqSmallPathOutcomes :
    after14.auto = false ∧
      smallChange after14.freq after14.center after14.centerValid after14.ppm = true ∧
      (calcImage after14.params after14.freq after14.cdiv 0).toOption = none ∧
      (calcImage after14.params after14.freq after14.cdiv after14.xtal).toOption =
        some ⟨0x4E, 0x42, 0xAA, 0x16, 0x30, 0x9E⟩ := by
  decide +kernel

/-- all hypotheses of the statement on one state -/
theorem witness_SetfreqLargeChangeCommits :
    start.params.WellFormed ∧
      start.auto = false ∧
      smallChange start.freq start.center start.centerValid start.ppm = false ∧
      solveDivider start.params start.freq start.grade = some ⟨9, 54, 486⟩ ∧
      (calcImage start.params start.freq ⟨9, 54, 486⟩ start.xtal).toOption = some ⟨0xAD, 0x42, 0xA8, 0x67, 0x7D, 0x1B⟩ ∧
      start.errIn = false :: false :: false :: false :: [] :=
  ⟨by decide +kernel, by decide +kernel, by decide +kernel, by decide +kernel, by decide +kernel, by decide +kernel⟩

/-- without the freeze bracket -/
theorem witness_SetfreqSmallChangeCompletes :
    after14.Inv ∧
      after14.auto = false ∧
      smallChange after14.freq after14.center after14.centerValid after14.ppm = true ∧
      (calcImage after14.params after14.freq after14.cdiv after14.xtal).toOption = some ⟨0x4E, 0x42, 0xAA, 0x16, 0x30, 0x9E⟩ ∧
      after14.errIn = (if after14.addrmode.getLsbD 1 then [false, false, false] else [false]) ++ [false, false, false] :=
  ⟨by decide +kernel, by decide +kernel, by decide +kernel, by decide +kernel, by decide +kernel⟩

/-- with the freeze bracket -/
theorem witness_SetfreqSmallChangeCompletes_freezing :
    freezing14.Inv ∧
      freezing14.auto = false ∧
      smallChange freezing14.freq freezing14.center freezing14.centerValid freezing14.ppm = true ∧
      (calcImage freezing14.params freezing14.freq freezing14.cdiv freezing14.xtal).toOption = some ⟨0x4E, 0x42, 0xAA, 0x16, 0x30, 0x9E⟩ ∧
      freezing14.errIn = (if freezing14.addrmode.getLsbD 1 then [false, false, false] else [false]) ++ [false] :=
  ⟨by decide +kernel, by decide +kernel, by decide +kernel, by decide +kernel, by decide +kernel⟩

/-- every error a clause speaks of is reached; also for SetfreqRespectsPpmAndRange and ErrorsEachCommandCanReport -/
theorem witness_FailedSetfreqKeepsTuneState :
    view (fun t => t.err) (exec .setfreq { start with freq := 0 }) = some .noDiv ∧
      view (fun t => t.err) (exec .setfreq { start with freq := 0xBB800000 }) = some .dco ∧
      view (fun t => t.err) (exec .setfreq { start with xtal := 0 }) = some .cfg ∧
      view (fun t => t.err) (exec .setfreq { start with errIn := [true] }) = some .bus ∧
      view (fun t => t.err) (exec .setfreq start) = some .ok := by
  decide +kernel

theorem witness_SmallPathNeverStrobes :
    after14.auto = false ∧ view (fun t => t.path) (exec .setfreq after14) = some true ∧
      (135, 0x20) ≠ ((137, 0x10) : Byte × Byte) ∧ (135, 0x20) ≠ ((135, 0x40) : Byte × Byte) ∧
      (135, 0) ≠ ((137, 0x10) : Byte × Byte) ∧ (135, 0) ≠ ((135, 0x40) : Byte × Byte) ∧
      (Params.default.regFrzm, Params.default.frzM, Params.default.regFrz, Params.default.frzDco, Params.default.regNewf,
        Params.default.newfreq) = (135, 0x20, 137, 0x10, 135, 0x40) := by
  decide +kernel

/-- scenario C of spec/95_test_vectors.md; also for BusErrorNamesLastGoodStep -/
theorem witness_FailedBlockWriteStopsTheSequence :
    scenarioC.auto = false ∧
      smallChange scenarioC.freq scenarioC.center scenarioC.centerValid scenarioC.ppm = false ∧
      scenarioC.errIn = false :: true :: [] ∧
      solveDivider scenarioC.params scenarioC.freq scenarioC.grade = some ⟨9, 54, 486⟩ ∧
      (calcImage scenarioC.params scenarioC.freq ⟨9, 54, 486⟩ scenarioC.xtal).toOption =
        some ⟨0xAD, 0x42, 0xA8, 0x67, 0x7D, 0x1B⟩ ∧
      view (fun t => (t.seq, t.err, t.center)) (exec .setfreq scenarioC) = some (.frozen, .bus, 0x01C00000) := by
  decide +kernel

/-- with a valid center -/
theorem witness_ZeroFrequencyIsRejected :
    ({ after14 with freq := 0 } : State).Inv ∧ ({ after14 with freq := 0 } : State).auto = false ∧
      view (fun t => t.err) (exec .setfreq { after14 with freq := 0 }) = some .noDiv := by
  decide +kernel

/-- CALC, the large path and the small path -/
theorem witness_DcoErrorExactlyWhenOutOfRange :
    view (fun t => t.err) (exec .calcCmd { start with freq := 0xB1800000, div := ⟨4, 1, 4⟩ }) = some .dco ∧
      view (fun t => t.err) (exec .setfreq { start with freq := 0xB1800000 }) = some .dco ∧
      tooFast.auto = false ∧ smallChange tooFast.freq tooFast.center tooFast.centerValid tooFast.ppm = true ∧
      view (fun t => t.err) (exec .setfreq tooFast) = some .dco := by
  decide +kernel

/-- program P7 -/
theorem witness_SetfreqEqualsStandAloneCommands :
    start.auto = false ∧ smallChange start.freq start.center start.centerValid start.ppm = false ∧
      view (fun t => t.err) (exec .solve start) = some .ok ∧
      view (fun t => t.err) (exec .calcCmd (solveState start)) = some .ok ∧
      view (fun t => t.err) (exec .wrlarge (calcState (solveState start))) = some .ok := by
  decide +kernel

theorem witness_OnlineForcesLargeChange :
    after14.auto = false ∧ view (fun t => t.path) (exec .setfreq { after14 with centerValid := false }) = some false := by
  decide +kernel

theorem witness_InvariantKeptByEveryStep :
    ({ after14 with hostIn := [.wr 0x3F 0x30] } : State).Inv ∧
      view (fun t => decide t.Inv) (step { start with hostIn := [.wr 0x3F 0x30] }) = some true := by
  decide +kernel

/-- each of the three events; also for OnlyNamedWritersWrite -/
theorem witness_TuneStateWrittenByThreeEvents :
    view (fun t => t.center) (step { start with hostIn := [.wr 0x3F 0x30] }) = some 0x01400000 ∧
      view (fun t => t.centerValid) (step { after14 with hostIn := [.wr 0x3F 0x31] }) = some false ∧
      view (fun t => t.center) (step { after14 with hostIn := [.reset] }) = some 0 := by
  decide +kernel

end Sys2Proof.Tests

end
end

/-! PROOF. The register image bit for bit: the bytes of `packFields` as numbers, and the 48-bit number they spell
(spec/30_encoding.md section 3, R97). -/

namespace Sys2Proof.Machine

/-- Inside the ranges of R97 the free value of log entry 11 is not reached. -/
theorem pack_of_packDomain {hs n1 r : Nat} (hd : packDomain hs n1 r) : pack hs n1 r = packFields (hs - 4) (n1 - 1) r :=
  if_pos hd

/-- A byte built by joining two fields with OR: where the low field fits below the high one, joining is adding. -/
theorem toNat_ofNat_shiftLeft_or {a b k : Nat} (hb : b < 2 ^ k) (hab : a * 2 ^ k + b < 2 ^ 8) :
    (BitVec.ofNat 8 (a <<< k ||| b)).toNat = a * 2 ^ k + b := by
  rw [← Nat.shiftLeft_add_eq_or_of_lt hb, Nat.shiftLeft_eq, BitVec.toNat_ofNat, Nat.mod_eq_of_lt hab]

/-! ### The bytes of `packFields` -/

/-- HS_DIV - 4 in bits 7:5, the top five bits of N1 - 1 below. -/
theorem packFields_b0_toNat {h m : Nat} (r : Nat) (hh : h < 2 ^ 3) (hm : m < 2 ^ 7) :
    (packFields h m r).b0.toNat = h * 32 + m / 4 := by
  have htop : m / 4 % 32 = m / 4 := by omega
  calc (packFields h m r).b0.toNat
      = (BitVec.ofNat 8 (h <<< 5 ||| m / 4)).toNat := by rw [packFields, htop]
    _ = h * 2 ^ 5 + m / 4 := toNat_ofNat_shiftLeft_or (by omega) (by omega)

/-- The low two bits of N1 - 1 in bits 7:6, the top six bits of the fractional value below. -/
theorem packFields_b1_toNat (h m : Nat) {r : Nat} (hr : r < 2 ^ 38) :
    (packFields h m r).b1.toNat = m % 4 * 64 + r / 2 ^ 32 := by
  have htop : r / 2 ^ 32 % 64 = r / 2 ^ 32 := by omega
  calc (packFields h m r).b1.toNat
      = (BitVec.ofNat 8 ((m % 4) <<< 6 ||| r / 2 ^ 32)).toNat := by rw [packFields, htop]
    _ = m % 4 * 2 ^ 6 + r / 2 ^ 32 := toNat_ofNat_shiftLeft_or (by omega) (by omega)

@[simp] theorem packFields_b2_toNat (h m r : Nat) : (packFields h m r).b2.toNat = r / 2 ^ 24 % 256 :=
  BitVec.toNat_ofNat ..

@[simp] theorem packFields_b3_toNat (h m r : Nat) : (packFields h m r).b3.toNat = r / 2 ^ 16 % 256 :=
  BitVec.toNat_ofNat ..

@[simp] theorem packFields_b4_toNat (h m r : Nat) : (packFields h m r).b4.toNat = r / 2 ^ 8 % 256 :=
  BitVec.toNat_ofNat ..

@[simp] theorem packFields_b5_toNat (h m r : Nat) : (packFields h m r).b5.toNat = r % 256 :=
  BitVec.toNat_ofNat ..

/-! ### The image as one number -/

/-- The six bytes sent first byte first, as one 48-bit number: each byte at its place value. -/
theorem toList_foldl_eq_place_values (b : Bytes6) :
    b.toList.foldl (fun acc x => acc * 256 + x.toNat) 0 =
      b.b0.toNat * 2 ^ 40 + b.b1.toNat * 2 ^ 32 + b.b2.toNat * 2 ^ 24 + b.b3.toNat * 2 ^ 16 + b.b4.toNat * 2 ^ 8 +
        b.b5.toNat := by
  simp only [Bytes6.toList, List.foldl_cons, List.foldl_nil]
  omega

/-- The top bits of the fractional value and its four low bytes, each at its place value, spell it. -/
theorem low_bytes_place_values (r : Nat) :
    r / 2 ^ 32 * 2 ^ 32 + r / 2 ^ 24 % 256 * 2 ^ 24 + r / 2 ^ 16 % 256 * 2 ^ 16 + r / 2 ^ 8 % 256 * 2 ^ 8 + r % 256 = r := by
  omega

/-- The 48-bit number of the image is `{h, m, R}`. -/
theorem packFields_foldl {h m r : Nat} (hh : h < 2 ^ 3) (hm : m < 2 ^ 7) (hr : r < 2 ^ 38) :
    (packFields h m r).toList.foldl (fun acc x => acc * 256 + x.toNat) 0 = h * 2 ^ 45 + m * 2 ^ 38 + r := by
  rw [toList_foldl_eq_place_values, packFields_b0_toNat r hh hm, packFields_b1_toNat h m hr, packFields_b2_toNat,
    packFields_b3_toNat, packFields_b4_toNat, packFields_b5_toNat]
  calc (h * 32 + m / 4) * 2 ^ 40 + (m % 4 * 64 + r / 2 ^ 32) * 2 ^ 32 + r / 2 ^ 24 % 256 * 2 ^ 24 +
        r / 2 ^ 16 % 256 * 2 ^ 16 + r / 2 ^ 8 % 256 * 2 ^ 8 + r % 256
      = h * 2 ^ 45 + (m / 4 * 4 + m % 4) * 2 ^ 38 + (r / 2 ^ 32 * 2 ^ 32 + r / 2 ^ 24 % 256 * 2 ^ 24 +
        r / 2 ^ 16 % 256 * 2 ^ 16 + r / 2 ^ 8 % 256 * 2 ^ 8 + r % 256) := by ring
    _ = h * 2 ^ 45 + m * 2 ^ 38 + r := by rw [Nat.div_add_mod', low_bytes_place_values]

end Sys2Proof.Machine

namespace Sys2Proof.Proofs

open Sys2Proof.Machine

/-- Settles O24: inside the ranges `pack` is `packFields` of h = HS_DIV - 4 (3 bits) and m = N1 - 1 (7 bits), whose bytes
and 48-bit number the lemmas above give. -/
theorem imageLayoutIsBitExact : Obligations.ImageLayoutIsBitExact := by
  intro hs n1 r hs_ge hs_le n1_ge n1_le hr
  have hh : hs - 4 < 2 ^ 3 := by omega
  have hm : n1 - 1 < 2 ^ 7 := by omega
  rw [pack_of_packDomain ⟨hs_ge, hs_le, n1_ge, n1_le, hr⟩]
  exact ⟨packFields_b0_toNat r hh hm, packFields_b1_toNat _ _ hr, packFields_b2_toNat _ _ r, packFields_b3_toNat _ _ r,
    packFields_b4_toNat _ _ r, packFields_b5_toNat _ _ r, packFields_foldl hh hm hr⟩

end Sys2Proof.Proofs

/-! PROOF. The multiplier's product as a number (spec/40_fixed_point.md R122): the 16-bit and 32-bit operands bound it
below 48 bits, so that `mul16x32` cuts nothing off. -/

namespace Sys2Proof.Machine

/-- The largest product of a 16-bit and a 32-bit number is that of the two largest operands. -/
theorem toNat_mul_toNat_le (a : BitVec 16) (b : BitVec 32) : a.toNat * b.toNat ≤ (2 ^ 16 - 1) * (2 ^ 32 - 1) :=
  Nat.mul_le_mul (Nat.le_sub_one_of_lt a.isLt) (Nat.le_sub_one_of_lt b.isLt)

/-- The largest product leaves room in 48 bits. -/
theorem largest_product_lt : (2 ^ 16 - 1) * (2 ^ 32 - 1) < 2 ^ 48 := by
  decide

/-- `mul16x32` is the product of the operands as numbers: none is cut at 48 bits. -/
@[simp] theorem mul16x32_toNat (a : BitVec 16) (b : BitVec 32) : (mul16x32 a b).toNat = a.toNat * b.toNat := by
  have fits : a.toNat * b.toNat < 2 ^ 48 := (toNat_mul_toNat_le a b).trans_lt largest_product_lt
  rw [mul16x32, BitVec.toNat_ofNat, Nat.mod_eq_of_lt fits]

end Sys2Proof.Machine

namespace Sys2Proof.Proofs

open Sys2Proof.Machine

/-- Settles O12: the product fits 48 bits, so that the multiplier's reduction to 48 bits is the identity. -/
theorem productIsExact : Obligations.ProductIsExact := by
  intro a b
  exact ⟨mul16x32_toNat a b, toNat_mul_toNat_le a b, largest_product_lt⟩

end Sys2Proof.Proofs

/-! PROOF. The search of the solver finds the preferred candidate, and only that one (spec/41_divider_solver.md R144, R145
(3), (4)): at every point of the trial order the kept candidate is preferred to all tried so far, because HS_DIV only
decreases along the order. -/

namespace Sys2Proof.Machine

/-! ### Which of two candidates the solver prefers -/

/-- The candidate x is as good as y or better: a smaller N, or the same N with an HS_DIV at least as large (R144). -/
def Candidate.Preferred (x y : Candidate) : Prop :=
  x.n ≤ y.n ∧ (x.n = y.n → y.hs ≤ x.hs)

theorem Candidate.Preferred.refl (x : Candidate) : x.Preferred x :=
  ⟨le_rfl, fun _ => le_rfl⟩

theorem Candidate.Preferred.trans {x y z : Candidate} (hxy : x.Preferred y) (hyz : y.Preferred z) : x.Preferred z := by
  unfold Candidate.Preferred at *
  omega

theorem Candidate.Preferred.hs_eq {x y : Candidate} (hxy : x.Preferred y) (hyx : y.Preferred x) : x.hs = y.hs := by
  unfold Candidate.Preferred at *
  omega

/-- A candidate tried later has the smaller HS_DIV, so that keeping the earlier one on a tie is what is preferred. -/
theorem keepBest_preferred {b c : Option Candidate} {y : Candidate} (hy : b = some y ∨ c = some y)
    (horder : ∀ u v, b = some u → c = some v → v.hs ≤ u.hs) : ∃ z, keepBest b c = some z ∧ z.Preferred y := by
  cases hk : keepBest b c with
  | none =>
    obtain ⟨rfl, rfl⟩ := keepBest_none.mp hk
    simp at hy
  | some z =>
    refine ⟨z, rfl, ?_⟩
    rcases keepBest_some hk with ⟨hz, hle⟩ | ⟨hz, hlt⟩ <;> rcases hy with hy | hy
    · cases hz.symm.trans hy; exact .refl _
    · exact ⟨hle y hy, fun _ => horder z y hz hy⟩
    · exact ⟨(hlt y hy).le, fun heq => absurd heq (hlt y hy).ne⟩
    · cases hz.symm.trans hy; exact .refl _

/-! ### Candidates -/

/-- When there is a candidate, and which. -/
theorem candidate_eq_some_iff {p : Params} {g : BitVec 2} {est hs : Nat} {x : Candidate} :
    candidate p g est hs = some x ↔
      (candidateN1 est hs ≤ 128 ∧ forbidden p g (candidateN1 est hs) hs = false) ∧
        x = ⟨hs, candidateN1 est hs, hs * candidateN1 est hs⟩ := by
  constructor
  · intro h
    obtain ⟨hx, hle, hallowed⟩ := candidate_some h
    exact ⟨⟨hle, hallowed⟩, hx⟩
  · rintro ⟨⟨hle, hallowed⟩, rfl⟩
    simp [candidate, hle, hallowed]

/-- A candidate carries the HS_DIV value it was tried for. -/
theorem candidate_hs {p : Params} {g : BitVec 2} {est hs : Nat} {x : Candidate} (h : candidate p g est hs = some x) :
    x.hs = hs := by
  rw [(candidate_some h).1]

/-! ### The search -/

/-- What the search finds over a decreasing list of HS_DIV values, none above that of the start, is preferred to the start
and to every candidate of the list. -/
theorem foldBest_preferred (p : Params) (g : BitVec 2) (est : Nat) (l : List Nat) (b : Option Candidate) (x : Candidate)
    (hdecr : l.Pairwise (· > ·)) (hstart : ∀ u, b = some u → ∀ k ∈ l, k ≤ u.hs)
    (h : l.foldl (fun best hs => keepBest best (candidate p g est hs)) b = some x) (y : Candidate)
    (hy : b = some y ∨ ∃ k ∈ l, candidate p g est k = some y) : x.Preferred y := by
  induction l generalizing b y with
  | nil =>
    obtain hy | ⟨k, hk, -⟩ := hy
    · cases h.symm.trans hy; exact .refl x
    · simp at hk
  | cons a l ih =>
    obtain ⟨ha, hl⟩ := List.pairwise_cons.mp hdecr
    have hstart' : ∀ u, keepBest b (candidate p g est a) = some u → ∀ k ∈ l, k ≤ u.hs := by
      intro u hu k hk
      rcases keepBest_some hu with ⟨hb, -⟩ | ⟨hc, -⟩
      · exact hstart u hb k (List.mem_cons_of_mem a hk)
      · exact candidate_hs hc ▸ (ha k hk).le
    have hkept : ∀ y, (b = some y ∨ candidate p g est a = some y) → x.Preferred y := by
      intro y hy
      obtain ⟨z, hz, hzy⟩ := keepBest_preferred hy fun u v hu hv =>
        candidate_hs hv ▸ hstart u hu a List.mem_cons_self
      exact (ih _ hl hstart' h z (.inl hz)).trans hzy
    rcases hy with hy | ⟨k, hk, hy⟩
    · exact hkept y (.inl hy)
    · rcases List.mem_cons.mp hk with rfl | hk
      · exact hkept y (.inr hy)
      · exact ih _ hl hstart' h y (.inr ⟨k, hk, hy⟩)

/-- The best candidate is the one of the trial order that is preferred to all of them. -/
theorem bestCandidate_eq_some_iff {p : Params} {g : BitVec 2} {est : Nat} {x : Candidate} :
    bestCandidate p g est = some x ↔
      (∃ hs ∈ hsOrder, candidate p g est hs = some x) ∧
        ∀ k ∈ hsOrder, ∀ y, candidate p g est k = some y → x.Preferred y := by
  have hfound : ∀ x, bestCandidate p g est = some x → (∃ hs ∈ hsOrder, candidate p g est hs = some x) ∧
      ∀ k ∈ hsOrder, ∀ y, candidate p g est k = some y → x.Preferred y := fun x h =>
    ⟨(foldBest_some p g est hsOrder none x h).1.resolve_left (by simp), fun k hk y hy =>
      foldBest_preferred p g est hsOrder none x (by decide) (by simp) h y (.inr ⟨k, hk, hy⟩)⟩
  refine ⟨hfound x, ?_⟩
  rintro ⟨⟨hs, hmem, hx⟩, hpref⟩
  cases hbest : bestCandidate p g est with
  | none => simp [((foldBest_none p g est hsOrder none).mp hbest).2 hs hmem] at hx
  | some z =>
    obtain ⟨⟨k, hk, hz⟩, hzpref⟩ := hfound z hbest
    have hsame : k = hs := by
      rw [← candidate_hs hz, ← candidate_hs hx]
      exact (hzpref hs hmem x hx).hs_eq (hpref k hk z hz)
    subst hsame
    exact hz.symm.trans hx

/-- The solver returns the divider whose three fields are those of the best candidate. -/
theorem solveDivider_eq_some_iff {p : Params} {f : BitVec 32} {g : BitVec 2} {d : Divider} :
    solveDivider p f g = some d ↔
      f ≠ 0 ∧ bestCandidate p g (n0 p f) = some ⟨d.hs.toNat, d.n1.toNat, d.n.toNat⟩ := by
  constructor
  · intro h
    obtain ⟨hf, hs, -, hhs, hn1, hn, -, -, hbest⟩ := solveDivider_some h
    exact ⟨hf, by rw [hhs, hn1, hn, hbest]⟩
  · rintro ⟨hf, hbest⟩
    rw [solveDivider, if_neg hf, hbest]
    simp

end Sys2Proof.Machine

namespace Sys2Proof.Proofs

open Sys2Proof.Machine

/-- Settles O21: a result of the solver is its best candidate, and the best candidate is the preferred one. -/
theorem solverPicksFirstLeastDivision : Obligations.SolverPicksFirstLeastDivision := by
  intro p f g d n1 valid
  rw [solveDivider_eq_some_iff, bestCandidate_eq_some_iff]
  refine and_congr_right fun _ => ⟨?_, ?_⟩
  · rintro ⟨⟨hs, hmem, hcand⟩, hpref⟩
    obtain ⟨hvalid, hd⟩ := candidate_eq_some_iff.mp hcand
    obtain ⟨hhs, hn1, hn⟩ := Candidate.mk.inj hd
    refine ⟨hs, hmem, hvalid, hhs, hn1, hn, fun k hk hkvalid => ?_⟩
    have hbetter := hpref k hk _ (candidate_eq_some_iff.mpr ⟨hkvalid, rfl⟩)
    rwa [hd] at hbetter
  · rintro ⟨hs, hmem, hvalid, hhs, hn1, hn, hleast⟩
    rw [hhs, hn1, hn]
    refine ⟨⟨hs, hmem, candidate_eq_some_iff.mpr ⟨hvalid, rfl⟩⟩, fun k hk y hy => ?_⟩
    obtain ⟨hkvalid, rfl⟩ := candidate_eq_some_iff.mp hy
    exact hleast k hk hkvalid

end Sys2Proof.Proofs

/-! PROOF. What an update of STATUS.ERR or of DIV leaves unchanged in the host register space, and the two outcomes of SOLVE
(spec/41_divider_solver.md R146). -/

namespace Sys2Proof.Machine

/-! ### Which bytes an update of one register can change -/

theorem readReg_setErr {s : State} {e : Err} {r : HostReg} (k : Nat) (hr : r ∉ [HostReg.status]) :
    readReg { s with err := e } r k = readReg s r k := by
  cases r with
  | status => simp at hr
  | _ => rfl

theorem readReg_setDiv {s : State} {d : Divider} {r : HostReg} (k : Nat)
    (hr : r ∉ [HostReg.divHs, HostReg.divN1, HostReg.divN]) : readReg { s with div := d } r k = readReg s r k := by
  cases r with
  | divHs | divN1 | divN => simp at hr
  | _ => rfl

/-- STATUS is the byte at 0x3C. -/
theorem sameBytesExcept_setErr (s : State) (e : Err) : SameBytesExcept s { s with err := e } [(0x3C, 1)] :=
  sameBytesExcept_of _ _ _ fun a r k ha hl =>
    readReg_setErr k (not_mem_of_regsInside (by decide) a r k ha hl)

/-- DIV_HS, DIV_N1 and DIV_N are the four bytes from 0x28 on. -/
theorem sameBytesExcept_setDiv (s : State) (d : Divider) : SameBytesExcept s { s with div := d } [(0x28, 4)] :=
  sameBytesExcept_of _ _ _ fun a r k ha hl =>
    readReg_setDiv k (not_mem_of_regsInside (by decide) a r k ha hl)

/-- Two updates one after the other change bytes of the ranges of either only. -/
theorem SameBytesExcept.trans {s t u : State} {l m : List (Nat × Nat)} (hst : SameBytesExcept s t l)
    (htu : SameBytesExcept t u m) : SameBytesExcept s u (l ++ m) := by
  intro a ha
  calc hostRead u a
      = hostRead t a := htu a fun r hr => ha r (List.mem_append_right l hr)
    _ = hostRead s a := hst a fun r hr => ha r (List.mem_append_left m hr)

/-! ### The outcomes of SOLVE -/

theorem exec_solve (s : State) : exec .solve s = .next (solveState s) :=
  rfl

theorem solveState_of_some {s : State} {d : Divider} (h : solveDivider s.params s.freq s.grade = some d) :
    solveState s = { s with err := .ok, div := d } := by
  simp only [solveState, h, State.startCommand]

theorem solveState_of_none {s : State} (h : solveDivider s.params s.freq s.grade = none) :
    solveState s = { s with err := .noDiv } := by
  simp only [solveState, h, State.startCommand, State.fail]

end Sys2Proof.Machine

namespace Sys2Proof.Proofs

open Sys2Proof.Machine

/-- Settles O18: a result of the solver goes to DIV, no result leaves only the code of the error. -/
theorem solveWritesDividerOrReportsNoDiv : Obligations.SolveWritesDividerOrReportsNoDiv := by
  refine ⟨Laws.OpcodeRoundTrip.solve.2, fun s => ⟨solveState s, exec_solve s, fun d hd => ?_, fun hnone => ?_⟩⟩
  · rw [solveState_of_some hd]
    exact ⟨rfl, (sameBytesExcept_setDiv s d).trans (sameBytesExcept_setErr _ .ok)⟩
  · rw [solveState_of_none hnone]
    exact ⟨rfl, sameBytesExcept_setErr s .noDiv⟩

end Sys2Proof.Proofs

/-! PROOF. When the solver finds no divider, and that no later step of the large path of SETFREQ reports that
(spec/60_exceptions.md R254). -/

namespace Sys2Proof.Machine

/-! ### No divider -/

/-- The solver finds nothing exactly when it does not search or when every value of the trial order is ruled out (R144). -/
theorem solveDivider_eq_none_iff {p : Params} {f : BitVec 32} {g : BitVec 2} :
    solveDivider p f g = none ↔
      f = 0 ∨ ∀ hs ∈ hsOrder, 128 < candidateN1 (n0 p f) hs ∨ forbidden p g (candidateN1 (n0 p f) hs) hs = true := by
  have hsearch : bestCandidate p g (n0 p f) = none ↔
      ∀ hs ∈ hsOrder, 128 < candidateN1 (n0 p f) hs ∨ forbidden p g (candidateN1 (n0 p f) hs) hs = true := by
    simp only [bestCandidate, foldBest_none, candidate_none, true_and]
  rw [← hsearch, solveDivider]
  by_cases hf : f = 0
  · simp [hf]
  · simp only [hf, false_or]
    cases bestCandidate p g (n0 p f) <;> simp

/-- SOLVE reports ERR_NODIV exactly when there is no divider. -/
theorem solveState_err_eq_noDiv_iff {s : State} :
    (solveState s).err = .noDiv ↔ solveDivider s.params s.freq s.grade = none := by
  cases h : solveDivider s.params s.freq s.grade with
  | none => simp [solveState_of_none h]
  | some d => simp [solveState_of_some h]

/-! ### The outcomes of the large path (spec/46_pipeline.md R233) -/

/-- The calculator has two errors of its own, and neither is that of the solver. -/
theorem calcImage_error_ne_noDiv {p : Params} {f : BitVec 32} {d : Divider} {x : BitVec 32} {e : Err}
    (h : calcImage p f d x = .error e) : e ≠ .noDiv := by
  rcases calcImage_cases p f d x with ⟨-, hdco⟩ | ⟨-, -, hcfg⟩ | ⟨-, -, -, hok⟩
  · cases hdco.symm.trans h; decide
  · cases hcfg.symm.trans h; decide
  · cases hok.symm.trans h

/-- The error of `write_large`: ERR_BUS at the first answer 1, else the code that stood before. -/
theorem afterLarge_err (b : Bytes6) (s : State) (e1 e2 e3 e4 : Bool) :
    (afterLarge b s e1 e2 e3 e4).err = if e1 || e2 || e3 || e4 then .bus else s.err := by
  unfold afterLarge
  cases e1 <;> cases e2 <;> cases e3 <;> cases e4 <;> rfl

theorem largePath_of_none {s : State} (h : solveDivider s.params s.freq s.grade = none) :
    largePath s = s.fail .noDiv := by
  simp only [largePath, h]

theorem largePath_of_calc_error {s : State} {d : Divider} {e : Err}
    (hd : solveDivider s.params s.freq s.grade = some d) (he : calcImage s.params s.freq d s.xtal = .error e) :
    largePath s = State.fail e { s with div := d } := by
  simp only [largePath, hd, he]

/-- With an image, the large path is the outcome table of `write_large`, committed when all four answers are 0. -/
theorem largePath_of_image {s : State} {d : Divider} {b : Bytes6}
    (hd : solveDivider s.params s.freq s.grade = some d) (hb : calcImage s.params s.freq d s.xtal = .ok b) :
    ∃ e1 e2 e3 e4 : Bool, Supplied s.errIn [e1, e2, e3, e4] ∧
      largePath s = if e1 || e2 || e3 || e4 then afterLarge b { s with div := d, img := b } e1 e2 e3 e4
        else commitTune (afterLarge b { s with div := d, img := b } e1 e2 e3 e4) := by
  obtain ⟨e1, e2, e3, e4, hsupplied, hok, htable⟩ := writeLarge_spec b { s with div := d, img := b }
  refine ⟨e1, e2, e3, e4, hsupplied, ?_⟩
  simp only [largePath, hd, hb]
  rw [← htable]
  rcases hw : writeLarge b { s with div := d, img := b } with ⟨ok, t⟩
  rw [hw] at hok
  obtain rfl : ok = !(e1 || e2 || e3 || e4) := hok
  cases e1 || e2 || e3 || e4 <;> rfl

/-- Once the solver has a divider, the large path may still fail, but not with ERR_NODIV. -/
theorem largePath_err_ne_noDiv {s : State} {d : Divider} (herr : s.err = .ok)
    (hd : solveDivider s.params s.freq s.grade = some d) : (largePath s).err ≠ .noDiv := by
  cases hc : calcImage s.params s.freq d s.xtal with
  | error e =>
    rw [largePath_of_calc_error hd hc]
    exact calcImage_error_ne_noDiv hc
  | ok b =>
    obtain ⟨e1, e2, e3, e4, -, hpath⟩ := largePath_of_image hd hc
    rw [hpath]
    cases hbad : e1 || e2 || e3 || e4 <;> simp [afterLarge_err, hbad, herr]

/-- The large path reports ERR_NODIV exactly when there is no divider. -/
theorem largePath_err_eq_noDiv_iff {s : State} (herr : s.err = .ok) :
    (largePath s).err = .noDiv ↔ solveDivider s.params s.freq s.grade = none := by
  cases hd : solveDivider s.params s.freq s.grade with
  | none => simp [largePath_of_none hd]
  | some d => simp [largePath_err_ne_noDiv herr hd]

theorem exec_setfreq (s : State) : exec .setfreq s = .next (setfreqState s) :=
  rfl

/-- Where SETFREQ takes the large path (spec/46_pipeline.md R231). -/
theorem setfreqState_of_large {s : State} (hauto : s.auto = false)
    (hlarge : smallChange s.freq s.center s.centerValid s.ppm = false) :
    setfreqState s = largePath { s with err := .ok, path := false } := by
  simp [setfreqState, hauto, hlarge, State.startCommand]

end Sys2Proof.Machine

namespace Sys2Proof.Proofs

open Sys2Proof.Machine

/-- Settles O23: both commands report ERR_NODIV exactly when the solver finds nothing, and they then write nothing else
(SETFREQ has written PATH). -/
theorem noDivExactlyWhenExhausted : Obligations.NoDivExactlyWhenExhausted := by
  intro s exhausted
  have hnone : solveDivider s.params s.freq s.grade = none ↔ exhausted := solveDivider_eq_none_iff
  refine ⟨hnone, ⟨solveState s, exec_solve s, solveState_err_eq_noDiv_iff.trans hnone, fun herr => ?_⟩,
    fun hauto hlarge => ?_⟩
  · exact solveState_of_none (solveState_err_eq_noDiv_iff.mp herr)
  · have hiff := largePath_err_eq_noDiv_iff (s := { s with err := .ok, path := false }) rfl
    rw [← setfreqState_of_large hauto hlarge] at hiff
    refine ⟨setfreqState s, exec_setfreq s, hiff.trans hnone, fun herr => ?_⟩
    rw [setfreqState_of_large hauto hlarge, largePath_of_none (hiff.mp herr)]
    rfl

end Sys2Proof.Proofs

/-! PROOF. Decoder and encoder, one state function for the eleven commands, and what one step is about, case by case
(spec/30_encoding.md section 1, spec/20_memory.md section 1, spec/60_exceptions.md section 2). -/

namespace Sys2Proof.Machine

/-! ### The decoder (spec/30_encoding.md R91, R92, R103) -/

@[simp] theorem decode_encode (i : Instr) : decode (encode i) = .ok i := by
  cases i with
  | nop => exact Laws.OpcodeRoundTrip.nop.2
  | mul => exact Laws.OpcodeRoundTrip.mul.2
  | divr => exact Laws.OpcodeRoundTrip.divr.2
  | solve => exact Laws.OpcodeRoundTrip.solve.2
  | calcCmd => exact Laws.OpcodeRoundTrip.calcCmd.2
  | decideCmd => exact Laws.OpcodeRoundTrip.decideCmd.2
  | wrlarge => exact Laws.OpcodeRoundTrip.wrlarge.2
  | wrsmall => exact Laws.OpcodeRoundTrip.wrsmall.2
  | detect => exact Laws.OpcodeRoundTrip.detect.2
  | setfreq => exact Laws.OpcodeRoundTrip.setfreq.2
  | online => exact Laws.OpcodeRoundTrip.online.2

/-- Every row of the table is a full mask over its command's byte, so that only that byte matches it (R103). -/
theorem opcodeTable_row {row : OpcodeRow} (h : row ∈ opcodeTable) :
    row.mask = BitVec.allOnes 8 ∧ row.pattern = encode row.instr := by
  have hall : ∀ row ∈ opcodeTable, row.mask = BitVec.allOnes 8 ∧ row.pattern = encode row.instr := by decide
  exact hall row h

theorem eq_encode_of_decode {c : Byte} {i : Instr} (h : decode c = .ok i) : c = encode i := by
  unfold decode at h
  split at h
  · next row hrow =>
    obtain rfl : row.instr = i := Except.ok.inj h
    obtain ⟨hmask, hpattern⟩ := opcodeTable_row (List.mem_of_find?_eq_some hrow)
    have hmatch : c &&& row.mask = row.pattern := by simpa using List.find?_some hrow
    rw [← hpattern, ← hmatch, hmask, BitVec.and_allOnes]
  · cases h

theorem decode_eq_ok_iff {c : Byte} {i : Instr} : decode c = .ok i ↔ c = encode i :=
  ⟨eq_encode_of_decode, fun h => h ▸ decode_encode i⟩

/-- A byte that is no command is rejected by name (R92). -/
theorem decode_eq_error {c : Byte} (h : ∀ i, c ≠ encode i) : decode c = .error (.illegalCommand c) := by
  cases hd : decode c with
  | ok i => exact absurd (eq_encode_of_decode hd) (h i)
  | error e =>
    unfold decode at hd
    split at hd
    · cases hd
    · exact hd.symm

/-- The eleven bytes of R91. -/
theorem encode_mem (i : Instr) :
    encode i ∈ ([0x00, 0x01, 0x02, 0x10, 0x11, 0x12, 0x20, 0x21, 0x22, 0x30, 0x31] : List Byte) := by
  cases i <;> decide

/-! ### One state function for the commands -/

/-- The state a command ends in, whichever command it is. -/
def commandState (i : Instr) (s : State) : State :=
  match i with
  | .nop => s.startCommand
  | .mul => { s.startCommand with prod := mul16x32 s.ma s.mb }
  | .divr => divrState s
  | .solve => solveState s
  | .calcCmd => calcState s
  | .decideCmd => { s.startCommand with result := smallChange s.freq s.center s.centerValid s.ppm }
  | .wrlarge => wrlargeState s
  | .wrsmall => wrsmallState s
  | .detect => detectState s
  | .setfreq => setfreqState s
  | .online => { s.startCommand with centerValid := false }

/-- Every command has a next state (spec/60_exceptions.md R265). -/
theorem exec_eq_next (i : Instr) (s : State) : exec i s = .next (commandState i s) := by
  cases i <;> rfl

theorem exec_eq_next_iff {i : Instr} {s t : State} : exec i s = .next t ↔ t = commandState i s := by
  rw [exec_eq_next, Host.Outcome.next.injEq, eq_comm]

/-! ### One step -/

theorem step_of_idle {s : State} (h : s.hostIn = []) : step s = .next s := by
  simp [step, nextAction, h]

theorem step_of_read {s : State} {a : BitVec 7} {rest : List HostEvent} (h : s.hostIn = .rd a :: rest) :
    step s = .next (completeRead { s with hostIn := rest } a) := by
  simp [step, nextAction, h]

theorem step_of_write {s : State} {a : BitVec 7} {v : Byte} {rest : List HostEvent} (h : s.hostIn = .wr a v :: rest)
    (ha : a ≠ cmdAddr) : step s = .next (hostWrite { s with hostIn := rest } a v) := by
  simp [step, nextAction, h, ha]

theorem step_of_reset {s : State} {rest : List HostEvent} (h : s.hostIn = .reset :: rest) :
    step s = .next (State.resetRegisters { s with hostIn := rest }) := by
  simp [step, nextAction, h]

theorem step_of_command {s : State} {c : Byte} {rest : List HostEvent} {i : Instr} (h : s.hostIn = .wr cmdAddr c :: rest)
    (hc : decode c = .ok i) : step s = exec i { s with hostIn := rest } := by
  simp [step, nextAction, h, hc]

theorem step_of_illegal {s : State} {c : Byte} {rest : List HostEvent} (h : s.hostIn = .wr cmdAddr c :: rest)
    (hc : ∀ i, c ≠ encode i) : step s = .next (illegalCommand { s with hostIn := rest }) := by
  simp [step, nextAction, h, decode_eq_error hc]

/-- Everything a step can do: one case for each kind of host event, a write to CMD being a command or no command. -/
inductive StepOutcome (s : State) : State → Prop
  | idle (h : s.hostIn = []) : StepOutcome s s
  | read (a : BitVec 7) (rest : List HostEvent) (h : s.hostIn = .rd a :: rest) :
      StepOutcome s (completeRead { s with hostIn := rest } a)
  | write (a : BitVec 7) (v : Byte) (rest : List HostEvent) (h : s.hostIn = .wr a v :: rest) (ha : a ≠ cmdAddr) :
      StepOutcome s (hostWrite { s with hostIn := rest } a v)
  | reset (rest : List HostEvent) (h : s.hostIn = .reset :: rest) :
      StepOutcome s (State.resetRegisters { s with hostIn := rest })
  | command (i : Instr) (rest : List HostEvent) (h : s.hostIn = .wr cmdAddr (encode i) :: rest) :
      StepOutcome s (commandState i { s with hostIn := rest })
  | illegal (c : Byte) (rest : List HostEvent) (h : s.hostIn = .wr cmdAddr c :: rest) (hc : ∀ i, c ≠ encode i) :
      StepOutcome s (illegalCommand { s with hostIn := rest })

theorem step_outcome (s : State) : ∃ t, step s = .next t ∧ StepOutcome s t := by
  cases h : s.hostIn with
  | nil => exact ⟨_, step_of_idle h, .idle h⟩
  | cons ev rest =>
    cases ev with
    | rd a => exact ⟨_, step_of_read h, .read a rest h⟩
    | reset => exact ⟨_, step_of_reset h, .reset rest h⟩
    | wr a v =>
      by_cases ha : a = cmdAddr
      · subst ha
        by_cases hc : ∃ i, v = encode i
        · obtain ⟨i, rfl⟩ := hc
          exact ⟨_, (step_of_command h (decode_encode i)).trans (exec_eq_next i _), .command i rest h⟩
        · have hc' : ∀ i, v ≠ encode i := fun i hi => hc ⟨i, hi⟩
          exact ⟨_, step_of_illegal h hc', .illegal v rest h hc'⟩
      · exact ⟨_, step_of_write h ha, .write a v rest h ha⟩

theorem stepOutcome_of_step {s t : State} (h : step s = .next t) : StepOutcome s t := by
  obtain ⟨u, hu, hout⟩ := step_outcome s
  obtain rfl : u = t := Host.Outcome.next.inj (hu.symm.trans h)
  exact hout

/-! ### A command byte placed in front (log entry 9) -/

/-- A table word that decodes is the byte of its command. -/
theorem commandByte_of_decodeTableWord {w : Nat} {i : Instr} (h : decodeTableWord 8 w = some i) :
    decode (commandByte 8 w) = .ok i := by
  unfold decodeTableWord at h
  split at h
  · next j hj => rw [hj, Option.some.inj h]
  · cases h

end Sys2Proof.Machine

namespace Sys2Proof.Proofs

open Sys2Proof.Machine

/-- Settles O1: the eleven bytes are the encodings of their commands; the two others match no row. -/
theorem opcodeMapDecodes : Obligations.OpcodeMapDecodes :=
  ⟨decode_encode .nop, decode_encode .mul, decode_encode .divr, decode_encode .solve, decode_encode .calcCmd,
    decode_encode .decideCmd, decode_encode .wrlarge, decode_encode .wrsmall, decode_encode .detect,
    decode_encode .setfreq, decode_encode .online, by decide, by decide⟩

/-- Settles O2: every row of the table has a full mask, so that a byte matches it exactly when it is its pattern. -/
theorem decodeExactlyTheEncodings : Obligations.DecodeExactlyTheEncodings :=
  ⟨fun _ _ => decode_eq_ok_iff, fun _ => decode_eq_error⟩

/-- Settles O3: a write to CMD is fetched and decoded, and `withFetchWord` puts such a write in front. -/
theorem stepRunsDecodedCommand : Obligations.StepRunsDecodedCommand :=
  ⟨fun _ _ _ _ hin hc _ => step_of_command hin hc,
    fun s w _ hw => step_of_command (s := s.withFetchWord 8 w) rfl (commandByte_of_decodeTableWord hw)⟩

/-- Settles O4: a byte outside the list is no encoding, and an illegal command ends in code 5 with all else kept. -/
theorem illegalByteOnlySetsErr : Obligations.IllegalByteOnlySetsErr := by
  intro s c rest hin hc
  have hno : ∀ i, c ≠ encode i := fun i hi => hc (hi ▸ encode_mem i)
  exact ⟨step_of_illegal hin hno, rfl⟩

/-- Settles O5: every kind of host event has a next state, and with none pending it is the state itself. -/
theorem stepAlwaysAnswers : Obligations.StepAlwaysAnswers := by
  refine ⟨fun s => ?_, fun s hin => step_of_idle hin⟩
  obtain ⟨t, ht, -⟩ := step_outcome s
  exact ⟨t, ht⟩

/-- Settles O6: a host read only appends the byte read to the model's output. -/
theorem hostReadChangesNothing : Obligations.HostReadChangesNothing :=
  fun _ _ _ hin => step_of_read hin

end Sys2Proof.Proofs

/-! PROOF. What the candidates of the solver reach, and so what its results are and when it has one
(spec/41_divider_solver.md R141, R143, R145, R147). -/

namespace Sys2Proof.Machine

/-! ### The candidate N1 (R143) -/

theorem candidateN1_eq_one_or_even (est hs : Nat) : candidateN1 est hs = 1 ∨ candidateN1 est hs % 2 = 0 := by
  simp only [candidateN1]
  split <;> omega

/-- Rounding up to 1 or an even number is adjoint to the inclusion of these numbers. -/
theorem candidateN1_le_iff {est hs m : Nat} (hm : m = 1 ∨ m % 2 = 0) :
    candidateN1 est hs ≤ m ↔ ceilDiv est hs ≤ m := by
  simp only [candidateN1]
  split <;> omega

/-- An N1 the solver may use is at or above the candidate exactly when it lifts the frequency to the DCO minimum. -/
theorem candidateN1_n0_le_iff (p : Params) {f : BitVec 32} {hs m : Nat} (hf : f ≠ 0) (hhs : 0 < hs)
    (hm : m = 1 ∨ m % 2 = 0) : candidateN1 (n0 p f) hs ≤ m ↔ dcoMinQ21 p ≤ f.toNat * hs * m := by
  rw [candidateN1_le_iff hm, ceilDiv_le_iff hhs, n0, ceilDiv_le_iff (toNat_pos_of_ne_zero hf), Nat.mul_assoc]

/-- The candidate itself reaches the DCO minimum (R145 (5)). -/
theorem dcoMinQ21_le_candidate (p : Params) {f : BitVec 32} {hs : Nat} (hf : f ≠ 0) (hhs : 0 < hs) :
    dcoMinQ21 p ≤ f.toNat * hs * candidateN1 (n0 p f) hs :=
  (candidateN1_n0_le_iff p hf hhs (candidateN1_eq_one_or_even _ _)).mp le_rfl

/-- With a legal DCO minimum the candidate is not 0, as 0 lifts nothing. -/
theorem candidateN1_pos (p : Params) {f : BitVec 32} {hs : Nat} (hf : f ≠ 0) (hhs : 0 < hs) (hmin : 1 ≤ p.dcoMinMHz) :
    1 ≤ candidateN1 (n0 p f) hs := by
  rcases Nat.eq_zero_or_pos (candidateN1 (n0 p f) hs) with h | h
  · have hreach := dcoMinQ21_le_candidate p hf hhs
    rw [h, dcoMinQ21] at hreach
    omega
  · exact h

theorem hsOrder_pos {hs : Nat} (h : hs ∈ hsOrder) : 0 < hs := by
  have hall : ∀ hs ∈ hsOrder, 0 < hs := by decide
  exact hall hs h

/-! ### Results of the solver -/

/-- Every result keeps the DCO at or above its minimum (R145 (5)). -/
theorem dcoMinQ21_le_of_solveDivider {p : Params} {f : BitVec 32} {g : BitVec 2} {d : Divider}
    (h : solveDivider p f g = some d) : dcoMinQ21 p ≤ d.n.toNat * f.toNat := by
  obtain ⟨hf, hs, hmem, -, -, hn, -⟩ := solveDivider_some h
  calc dcoMinQ21 p ≤ f.toNat * hs * candidateN1 (n0 p f) hs := dcoMinQ21_le_candidate p hf (hsOrder_pos hmem)
    _ = d.n.toNat * f.toNat := by rw [hn]; ring

/-- Every result is legal (R145 (1)). -/
theorem legal_of_solveDivider {p : Params} {f : BitVec 32} {g : BitVec 2} {d : Divider} (hmin : 1 ≤ p.dcoMinMHz)
    (h : solveDivider p f g = some d) : d.Legal := by
  obtain ⟨hf, hs, hmem, hhs, hn1, hn, hle, -, -⟩ := solveDivider_some h
  have hpos := candidateN1_pos p hf (hsOrder_pos hmem) hmin
  have heven := candidateN1_eq_one_or_even (n0 p f) hs
  simp only [hsOrder, List.mem_cons, List.not_mem_nil, or_false] at hmem
  rw [← hn1] at hpos heven hle
  rw [← hhs] at hmem
  refine ⟨by omega, heven, hpos, hle, by rw [hn, hhs, hn1]⟩

/-- The total division of a result is at most 11 × 128. -/
theorem n_le_of_solveDivider {p : Params} {f : BitVec 32} {g : BitVec 2} {d : Divider}
    (h : solveDivider p f g = some d) : d.n.toNat ≤ 1408 := by
  obtain ⟨-, hs, hmem, -, -, hn, hle, -, -⟩ := solveDivider_some h
  have hall : ∀ hs ∈ hsOrder, hs ≤ 11 := by decide
  exact hn ▸ Nat.mul_le_mul (hall hs hmem) hle

/-- What a result lifts to the DCO minimum, the largest total division lifts too. -/
theorem reachable_of_solveDivider {p : Params} {f : BitVec 32} {g : BitVec 2} {d : Divider}
    (h : solveDivider p f g = some d) : f ≠ 0 ∧ dcoMinQ21 p ≤ 1408 * f.toNat :=
  ⟨(solveDivider_some h).1,
    (dcoMinQ21_le_of_solveDivider h).trans (Nat.mul_le_mul_right _ (n_le_of_solveDivider h))⟩

/-- Grade A forbids no pair (spec/00_scope.md R9). -/
theorem forbidden_gradeA (p : Params) (n1 hs : Nat) : forbidden p 0 n1 hs = false :=
  rfl

/-- What the largest total division lifts to the DCO minimum, grade A solves: HS_DIV = 11 is not ruled out. -/
theorem solveDivider_gradeA_isSome {p : Params} {f : BitVec 32} (hf : f ≠ 0) (hreach : dcoMinQ21 p ≤ 1408 * f.toNat) :
    (solveDivider p f 0).isSome = true := by
  have hle : candidateN1 (n0 p f) 11 ≤ 128 :=
    (candidateN1_n0_le_iff p hf (by decide) (.inr rfl)).mpr (by omega)
  rw [Option.isSome_iff_ne_none, ne_eq, solveDivider_eq_none_iff]
  rintro (h | h)
  · exact hf h
  · rcases h 11 (by decide) with hgt | hforb
    · omega
    · exact Bool.false_ne_true ((forbidden_gradeA p _ _).symm.trans hforb)

end Sys2Proof.Machine

namespace Sys2Proof.Proofs

open Sys2Proof.Machine

/-- Settles O20: an N1 that is 1 or even is at or above the candidate exactly when it reaches the minimum. -/
theorem candidateIsLeastEvenDivider : Obligations.CandidateIsLeastEvenDivider := by
  intro p f hs hf _ hmem n1
  have hhs : 0 < hs := hsOrder_pos hmem
  exact ⟨dcoMinQ21_le_candidate p hf hhs, candidateN1_eq_one_or_even _ _, fun m hreach hm =>
    (candidateN1_n0_le_iff p hf hhs hm).mpr hreach⟩

/-- Settles O19: a result is one of the candidates, which are legal where they are not rejected. -/
theorem solverResultIsLegal : Obligations.SolverResultIsLegal := by
  intro p f g d hmin h
  obtain ⟨-, hs, -, hhs, hn1, -, -, hallowed, -⟩ := solveDivider_some h
  exact ⟨legal_of_solveDivider hmin h, by rw [hhs, hn1, hallowed], dcoMinQ21_le_of_solveDivider h⟩

/-- Settles O22: no total division is above 1408, and for grade A the candidate of HS_DIV = 11 has N1 at most 128 exactly
when 1408 reaches the minimum. -/
theorem gradeASolvesExactlyReachable : Obligations.GradeASolvesExactlyReachable := by
  intro p f
  have hreach : ∀ g, (solveDivider p f g).isSome = true → f ≠ 0 ∧ dcoMinQ21 p ≤ 1408 * f.toNat := by
    intro g h
    obtain ⟨d, hd⟩ := Option.isSome_iff_exists.mp h
    exact reachable_of_solveDivider hd
  exact ⟨⟨hreach 0, fun ⟨hf, h⟩ => solveDivider_gradeA_isSome hf h⟩, fun g h =>
    solveDivider_gradeA_isSome (hreach g h).1 (hreach g h).2⟩

end Sys2Proof.Proofs

/-! PROOF. The outcomes of the commands that use the bus: refused while detection is pending, else a row of an outcome
table (spec/44_write_protocol.md R195, R198, R202, spec/45_autodetect.md R222, spec/46_pipeline.md R231 to R233). -/

namespace Sys2Proof.Machine

/-! ### WRLARGE, WRSMALL, DETECT -/

theorem exec_wrlarge (s : State) : exec .wrlarge s = .next (wrlargeState s) :=
  rfl

theorem exec_wrsmall (s : State) : exec .wrsmall s = .next (wrsmallState s) :=
  rfl

theorem exec_detect (s : State) : exec .detect s = .next (detectState s) :=
  rfl

theorem wrlargeState_of_auto {s : State} (h : s.auto = true) : wrlargeState s = { s with err := .cfg } := by
  simp [wrlargeState, h, State.startCommand, State.fail]

theorem wrsmallState_of_auto {s : State} (h : s.auto = true) : wrsmallState s = { s with err := .cfg } := by
  simp [wrsmallState, h, State.startCommand, State.fail]

theorem wrlargeState_of_resolved {s : State} (h : s.auto = false) :
    ∃ e1 e2 e3 e4 : Bool, Supplied s.errIn [e1, e2, e3, e4] ∧
      wrlargeState s = afterLarge s.img { s with err := .ok } e1 e2 e3 e4 := by
  obtain ⟨e1, e2, e3, e4, hsupplied, -, htable⟩ := writeLarge_spec s.img s.startCommand
  exact ⟨e1, e2, e3, e4, hsupplied, by rw [wrlargeState, h]; exact htable⟩

theorem wrsmallState_of_resolved {s : State} (h : s.auto = false) :
    ∃ e1 e2 e3 : Bool, Supplied s.errIn [e1, e2, e3] ∧
      wrsmallState s = afterSmall s.img { s with err := .ok } e1 e2 e3 := by
  obtain ⟨e1, e2, e3, hsupplied, -, htable⟩ := writeSmall_spec s.img s.startCommand
  exact ⟨e1, e2, e3, hsupplied, by rw [wrsmallState, h]; exact htable⟩

theorem detectState_of_resolved {s : State} (h : s.auto = false) : detectState s = { s with err := .ok } := by
  simp [detectState, h, State.startCommand]

theorem detectState_of_auto {s : State} (h : s.auto = true) :
    ∃ (e1 e2 e3 : Bool) (d : Bytes6), Supplied s.errIn [e1, e2, e3] ∧ Supplied s.rxIn d.toList ∧
      detectState s = afterDetect { s with err := .ok } e1 e2 e3 d := by
  obtain ⟨e1, e2, e3, d, herr, hrx, htable⟩ := probeChip_spec s.startCommand
  exact ⟨e1, e2, e3, d, herr, hrx, by rw [detectState, h]; exact htable⟩

/-! ### SETFREQ -/

theorem setfreqState_of_auto {s : State} (h : s.auto = true) : setfreqState s = { s with err := .cfg } := by
  simp [setfreqState, h, State.startCommand, State.fail]

/-- Where SETFREQ takes the small path (spec/46_pipeline.md R231). -/
theorem setfreqState_of_small {s : State} (hauto : s.auto = false)
    (hsmall : smallChange s.freq s.center s.centerValid s.ppm = true) :
    setfreqState s = smallPath { s with err := .ok, path := true } := by
  simp [setfreqState, hauto, hsmall, State.startCommand]

theorem smallPath_of_calc_error {s : State} {e : Err} (he : calcImage s.params s.freq s.cdiv s.xtal = .error e) :
    smallPath s = s.fail e := by
  simp only [smallPath, he]

/-- With an image, the small path is the outcome table of `write_small` (R232). -/
theorem smallPath_of_image {s : State} {b : Bytes6} (hb : calcImage s.params s.freq s.cdiv s.xtal = .ok b) :
    ∃ e1 e2 e3 : Bool, Supplied s.errIn [e1, e2, e3] ∧ smallPath s = afterSmall b { s with img := b } e1 e2 e3 := by
  obtain ⟨e1, e2, e3, hsupplied, -, htable⟩ := writeSmall_spec b { s with img := b }
  exact ⟨e1, e2, e3, hsupplied, by simpa only [smallPath, hb] using htable⟩

/-! The rows of SETFREQ. -/

theorem setfreqState_of_smallError {s : State} {e : Err} (hauto : s.auto = false)
    (hsmall : smallChange s.freq s.center s.centerValid s.ppm = true)
    (hcalc : calcImage s.params s.freq s.cdiv s.xtal = .error e) :
    setfreqState s = { s with err := e, path := true } :=
  (setfreqState_of_small hauto hsmall).trans (smallPath_of_calc_error (s := { s with err := .ok, path := true }) hcalc)

theorem setfreqState_of_smallImage {s : State} {b : Bytes6} (hauto : s.auto = false)
    (hsmall : smallChange s.freq s.center s.centerValid s.ppm = true)
    (hcalc : calcImage s.params s.freq s.cdiv s.xtal = .ok b) :
    ∃ e1 e2 e3 : Bool, Supplied s.errIn [e1, e2, e3] ∧
      setfreqState s = afterSmall b { s with err := .ok, path := true, img := b } e1 e2 e3 := by
  rw [setfreqState_of_small hauto hsmall]
  exact smallPath_of_image (s := { s with err := .ok, path := true }) hcalc

theorem setfreqState_of_noDivider {s : State} (hauto : s.auto = false)
    (hlarge : smallChange s.freq s.center s.centerValid s.ppm = false)
    (hsolve : solveDivider s.params s.freq s.grade = none) :
    setfreqState s = { s with err := .noDiv, path := false } :=
  (setfreqState_of_large hauto hlarge).trans (largePath_of_none (s := { s with err := .ok, path := false }) hsolve)

theorem setfreqState_of_largeError {s : State} {d : Divider} {e : Err} (hauto : s.auto = false)
    (hlarge : smallChange s.freq s.center s.centerValid s.ppm = false)
    (hsolve : solveDivider s.params s.freq s.grade = some d)
    (hcalc : calcImage s.params s.freq d s.xtal = .error e) :
    setfreqState s = { s with err := e, path := false, div := d } :=
  (setfreqState_of_large hauto hlarge).trans
    (largePath_of_calc_error (s := { s with err := .ok, path := false }) hsolve hcalc)

theorem setfreqState_of_largeImage {s : State} {d : Divider} {b : Bytes6} (hauto : s.auto = false)
    (hlarge : smallChange s.freq s.center s.centerValid s.ppm = false)
    (hsolve : solveDivider s.params s.freq s.grade = some d) (hcalc : calcImage s.params s.freq d s.xtal = .ok b) :
    ∃ e1 e2 e3 e4 : Bool, Supplied s.errIn [e1, e2, e3, e4] ∧
      ((e1 || e2 || e3 || e4) = true ∧
          setfreqState s = afterLarge b { s with err := .ok, path := false, div := d, img := b } e1 e2 e3 e4 ∨
        (e1 = false ∧ e2 = false ∧ e3 = false ∧ e4 = false) ∧
          setfreqState s = commitTune
            (afterLarge b { s with err := .ok, path := false, div := d, img := b } false false false false)) := by
  obtain ⟨e1, e2, e3, e4, hsupplied, htable⟩ :=
    largePath_of_image (s := { s with err := .ok, path := false }) hsolve hcalc
  refine ⟨e1, e2, e3, e4, hsupplied, ?_⟩
  rw [setfreqState_of_large hauto hlarge, htable]
  cases hbad : e1 || e2 || e3 || e4 with
  | true => exact .inl ⟨rfl, rfl⟩
  | false =>
    simp only [Bool.or_eq_false_iff] at hbad
    obtain ⟨⟨⟨rfl, rfl⟩, rfl⟩, rfl⟩ := hbad
    exact .inr ⟨⟨rfl, rfl, rfl, rfl⟩, rfl⟩

/-- Everything SETFREQ can do: refused, or a row of the small or of the large path (spec/46_pipeline.md R231 to R235). -/
inductive SetfreqOutcome (s : State) : State → Prop
  | refused (hauto : s.auto = true) : SetfreqOutcome s { s with err := .cfg }
  | smallError (e : Err) (hauto : s.auto = false) (hsmall : smallChange s.freq s.center s.centerValid s.ppm = true)
      (hcalc : calcImage s.params s.freq s.cdiv s.xtal = .error e) :
      SetfreqOutcome s { s with err := e, path := true }
  | smallWritten (b : Bytes6) (e1 e2 e3 : Bool) (hauto : s.auto = false)
      (hsmall : smallChange s.freq s.center s.centerValid s.ppm = true)
      (hcalc : calcImage s.params s.freq s.cdiv s.xtal = .ok b) (hsupplied : Supplied s.errIn [e1, e2, e3]) :
      SetfreqOutcome s (afterSmall b { s with err := .ok, path := true, img := b } e1 e2 e3)
  | noDivider (hauto : s.auto = false) (hlarge : smallChange s.freq s.center s.centerValid s.ppm = false)
      (hsolve : solveDivider s.params s.freq s.grade = none) :
      SetfreqOutcome s { s with err := .noDiv, path := false }
  | largeError (d : Divider) (e : Err) (hauto : s.auto = false)
      (hlarge : smallChange s.freq s.center s.centerValid s.ppm = false)
      (hsolve : solveDivider s.params s.freq s.grade = some d)
      (hcalc : calcImage s.params s.freq d s.xtal = .error e) :
      SetfreqOutcome s { s with err := e, path := false, div := d }
  | largeFailed (d : Divider) (b : Bytes6) (e1 e2 e3 e4 : Bool) (hauto : s.auto = false)
      (hlarge : smallChange s.freq s.center s.centerValid s.ppm = false)
      (hsolve : solveDivider s.params s.freq s.grade = some d) (hcalc : calcImage s.params s.freq d s.xtal = .ok b)
      (hsupplied : Supplied s.errIn [e1, e2, e3, e4]) (hbad : (e1 || e2 || e3 || e4) = true) :
      SetfreqOutcome s (afterLarge b { s with err := .ok, path := false, div := d, img := b } e1 e2 e3 e4)
  | committed (d : Divider) (b : Bytes6) (hauto : s.auto = false)
      (hlarge : smallChange s.freq s.center s.centerValid s.ppm = false)
      (hsolve : solveDivider s.params s.freq s.grade = some d) (hcalc : calcImage s.params s.freq d s.xtal = .ok b)
      (hsupplied : Supplied s.errIn [false, false, false, false]) :
      SetfreqOutcome s
        (commitTune (afterLarge b { s with err := .ok, path := false, div := d, img := b } false false false false))

theorem setfreqState_outcome (s : State) : SetfreqOutcome s (setfreqState s) := by
  cases hauto : s.auto with
  | true => exact setfreqState_of_auto hauto ▸ .refused hauto
  | false =>
    cases hpath : smallChange s.freq s.center s.centerValid s.ppm with
    | true =>
      cases hcalc : calcImage s.params s.freq s.cdiv s.xtal with
      | error e => exact setfreqState_of_smallError hauto hpath hcalc ▸ .smallError e hauto hpath hcalc
      | ok b =>
        obtain ⟨e1, e2, e3, hsupplied, htable⟩ := setfreqState_of_smallImage hauto hpath hcalc
        exact htable ▸ .smallWritten b e1 e2 e3 hauto hpath hcalc hsupplied
    | false =>
      cases hsolve : solveDivider s.params s.freq s.grade with
      | none => exact setfreqState_of_noDivider hauto hpath hsolve ▸ .noDivider hauto hpath hsolve
      | some d =>
        cases hcalc : calcImage s.params s.freq d s.xtal with
        | error e =>
          exact setfreqState_of_largeError hauto hpath hsolve hcalc ▸ .largeError d e hauto hpath hsolve hcalc
        | ok b =>
          obtain ⟨e1, e2, e3, e4, hsupplied, ⟨hbad, htable⟩ | ⟨⟨rfl, rfl, rfl, rfl⟩, htable⟩⟩ :=
            setfreqState_of_largeImage hauto hpath hsolve hcalc
          · exact htable ▸ .largeFailed d b e1 e2 e3 e4 hauto hpath hsolve hcalc hsupplied hbad
          · exact htable ▸ .committed d b hauto hpath hsolve hcalc hsupplied

end Sys2Proof.Machine

namespace Sys2Proof.Proofs

open Sys2Proof.Machine

/-- Settles O38: AUTO is bit 2 of ADDRMODE, and each of the three commands tests it first. -/
theorem pendingDetectionRefusesWrites : Obligations.PendingDetectionRefusesWrites := by
  intro s hauto i hi
  simp only [List.mem_cons, List.not_mem_nil, or_false] at hi
  rcases hi with rfl | rfl | rfl
  · rw [exec_setfreq, setfreqState_of_auto hauto]
  · rw [exec_wrlarge, wrlargeState_of_auto hauto]
  · rw [exec_wrsmall, wrsmallState_of_auto hauto]

/-- Settles O32: WRLARGE is `write_large` of IMG, whose outcomes are the table of R199. -/
theorem wrlargeFollowsOutcomeTable : Obligations.WrlargeFollowsOutcomeTable := by
  refine ⟨decode_encode .wrlarge, fun s hauto => ?_, fun s hauto => ?_⟩
  · rw [exec_wrlarge, wrlargeState_of_auto hauto]
  · obtain ⟨e1, e2, e3, e4, hsupplied, htable⟩ := wrlargeState_of_resolved hauto
    exact ⟨e1, e2, e3, e4, hsupplied, by rw [exec_wrlarge, htable]⟩

/-- Settles O34: WRSMALL is `write_small` of IMG, whose outcomes are the table of R203. -/
theorem wrsmallFollowsOutcomeTable : Obligations.WrsmallFollowsOutcomeTable := by
  refine ⟨decode_encode .wrsmall, fun s hauto => ?_, fun s hauto => ?_⟩
  · rw [exec_wrsmall, wrsmallState_of_auto hauto]
  · obtain ⟨e1, e2, e3, hsupplied, htable⟩ := wrsmallState_of_resolved hauto
    exact ⟨e1, e2, e3, hsupplied, by rw [exec_wrsmall, htable]⟩

/-- Settles O36: with AUTO 0 DETECT ends after clearing STATUS.ERR, with AUTO 1 it is the detection. -/
theorem detectFollowsProbeOutcomes : Obligations.DetectFollowsProbeOutcomes := by
  refine ⟨decode_encode .detect, fun s hauto => ?_, fun s hauto => ?_⟩
  · rw [exec_detect, detectState_of_resolved hauto]
  · obtain ⟨e1, e2, e3, d, herr, hrx, htable⟩ := detectState_of_auto hauto
    exact ⟨e1, e2, e3, d, herr, hrx, by rw [exec_detect, htable]⟩

/-- Settles O39: solver, calculator and write sequence fail one after the other, and only then is there a commit. -/
theorem setfreqLargePathOutcomes : Obligations.SetfreqLargePathOutcomes := by
  refine ⟨decode_encode .setfreq, fun s hauto hlarge => ?_⟩
  rw [exec_setfreq]
  refine ⟨fun hsolve => ?_, fun d e hsolve hcalc => ?_, fun d b hsolve hcalc => ?_⟩
  · rw [setfreqState_of_noDivider hauto hlarge hsolve]
  · rw [setfreqState_of_largeError hauto hlarge hsolve hcalc]
  · obtain ⟨e1, e2, e3, e4, hsupplied, ⟨hbad, htable⟩ | ⟨⟨rfl, rfl, rfl, rfl⟩, htable⟩⟩ :=
      setfreqState_of_largeImage hauto hlarge hsolve hcalc
    · exact ⟨e1, e2, e3, e4, hsupplied, by rw [htable, if_pos hbad]⟩
    · exact ⟨false, false, false, false, hsupplied, by rw [htable]; rfl⟩

/-- Settles O40: the small path fails in the calculator or runs `write_small` of the new image. -/
theorem setfreqSmallPathOutcomes : Obligations.SetfreqSmallPathOutcomes := by
  intro s hauto hsmall
  rw [exec_setfreq]
  refine ⟨fun e hcalc => ?_, fun b hcalc => ?_⟩
  · rw [setfreqState_of_smallError hauto hsmall hcalc]
  · obtain ⟨e1, e2, e3, hsupplied, htable⟩ := setfreqState_of_smallImage hauto hsmall hcalc
    exact ⟨e1, e2, e3, hsupplied, by rw [htable]⟩

end Sys2Proof.Proofs

/-! PROOF. Which fields each command writes, and which fields a host write writes (spec/10_state.md R20,
spec/20_memory.md R62). -/

namespace Sys2Proof.Machine

/-! ### The frame of each command -/

theorem divrState_frame (s : State) : ∃ e q o, divrState s = { s with err := e, quot := q, qovf := o } := by
  unfold divrState
  split <;> exact ⟨_, _, _, rfl⟩

theorem solveState_frame (s : State) : ∃ e d, solveState s = { s with err := e, div := d } := by
  unfold solveState
  split <;> exact ⟨_, _, rfl⟩

theorem calcState_frame (s : State) : ∃ e b, calcState s = { s with err := e, img := b } := by
  unfold calcState
  split
  · exact ⟨_, _, rfl⟩
  · split <;> exact ⟨_, _, rfl⟩

theorem wrlargeState_frame (s : State) :
    ∃ e q a tr, wrlargeState s = { s with err := e, seq := q, errIn := a, trace := tr } := by
  cases h : s.auto with
  | true => exact ⟨_, _, _, _, wrlargeState_of_auto h⟩
  | false =>
    obtain ⟨e1, e2, e3, e4, -, htable⟩ := wrlargeState_of_resolved h
    exact ⟨_, _, _, _, htable.trans (afterLarge_frame ..)⟩

theorem wrsmallState_frame (s : State) :
    ∃ e q a tr, wrsmallState s = { s with err := e, seq := q, errIn := a, trace := tr } := by
  cases h : s.auto with
  | true => exact ⟨_, _, _, _, wrsmallState_of_auto h⟩
  | false =>
    obtain ⟨e1, e2, e3, -, htable⟩ := wrsmallState_of_resolved h
    exact ⟨_, _, _, _, htable.trans (afterSmall_frame ..)⟩

theorem detectState_frame (s : State) :
    ∃ e d m r a x tr, detectState s =
      { s with err := e, rbuf := d, addrmode := m, result := r, errIn := a, rxIn := x, trace := tr } := by
  cases h : s.auto with
  | false => exact ⟨_, _, _, _, _, _, _, detectState_of_resolved h⟩
  | true =>
    obtain ⟨e1, e2, e3, d, -, -, htable⟩ := detectState_of_auto h
    exact ⟨_, _, _, _, _, _, _, htable.trans (afterDetect_frame ..)⟩

theorem SetfreqOutcome.frame {s t : State} (h : SetfreqOutcome s t) :
    ∃ e p d b q a tr c v cd, t =
      { s with err := e, path := p, div := d, img := b, seq := q, errIn := a, trace := tr, center := c, centerValid := v,
               cdiv := cd } := by
  cases h with
  | refused | smallError | noDivider | largeError => exact ⟨_, _, _, _, _, _, _, _, _, _, rfl⟩
  | smallWritten => exact ⟨_, _, _, _, _, _, _, _, _, _, afterSmall_frame ..⟩
  | largeFailed => exact ⟨_, _, _, _, _, _, _, _, _, _, afterLarge_frame ..⟩
  | committed => rw [afterLarge_frame]; exact ⟨_, _, _, _, _, _, _, _, _, _, rfl⟩

/-! ### The frame of a host write -/

theorem writeReg_frame (s : State) (r : HostReg) (k : Nat) (v : Byte) :
    ∃ f x p g m ma mb dv pr im, writeReg s r k v =
      { s with freq := f, xtal := x, ppm := p, grade := g, addrmode := m, ma := ma, mb := mb, dvs := dv, prod := pr,
               img := im } := by
  cases r <;> exact ⟨_, _, _, _, _, _, _, _, _, _, rfl⟩

theorem hostWrite_frame (s : State) (a : BitVec 7) (v : Byte) :
    ∃ f x p g m ma mb dv pr im, hostWrite s a v =
      { s with freq := f, xtal := x, ppm := p, grade := g, addrmode := m, ma := ma, mb := mb, dvs := dv, prod := pr,
               img := im } := by
  unfold hostWrite
  split
  · exact writeReg_frame ..
  · exact ⟨_, _, _, _, _, _, _, _, _, _, rfl⟩

end Sys2Proof.Machine

namespace Sys2Proof.Proofs

open Sys2Proof.Machine

/-- Settles O55: the frame of each command lists every register its outcomes write. -/
theorem onlyNamedWritersWrite : Obligations.OnlyNamedWritersWrite := by
  intro i s t h
  obtain rfl := exec_eq_next_iff.mp h
  cases i with
  | nop | mul | decideCmd | online => simp [commandState]
  | divr => obtain ⟨e, q, o, h⟩ := divrState_frame s; simp [commandState, h]
  | solve => obtain ⟨e, d, h⟩ := solveState_frame s; simp [commandState, h]
  | calcCmd => obtain ⟨e, b, h⟩ := calcState_frame s; simp [commandState, h]
  | wrlarge => obtain ⟨e, q, a, tr, h⟩ := wrlargeState_frame s; simp [commandState, h]
  | wrsmall => obtain ⟨e, q, a, tr, h⟩ := wrsmallState_frame s; simp [commandState, h]
  | detect => obtain ⟨e, d, m, r, a, x, tr, h⟩ := detectState_frame s; simp [commandState, h]
  | setfreq => obtain ⟨e, p, d, b, q, a, tr, c, v, cd, h⟩ := (setfreqState_outcome s).frame; simp [commandState, h]

end Sys2Proof.Proofs

/-! PROOF. The invariant of the dividers and the smooth-tune state: what SETFREQ does to them, and that nothing else
writes them but SOLVE (DIV), ONLINE (CENTER_VALID) and reset (spec/10_state.md R25, R26, R40, R44,
spec/46_pipeline.md R233). -/

namespace Sys2Proof.Machine

/-! ### The smooth-tune state -/

/-- CENTER, CDIV and CENTER_VALID are those of s. -/
def State.TuneKept (s t : State) : Prop :=
  t.center = s.center ∧ t.cdiv = s.cdiv ∧ t.centerValid = s.centerValid

/-- A large change has ended with every step good: the smooth-tune state is that of FREQ and of the divider d. -/
structure State.Committed (s t : State) (d : Divider) : Prop where
  solved : solveDivider s.params s.freq s.grade = some d
  err : t.err = .ok
  path : t.path = false
  seq : t.seq = .committed
  center : t.center = s.freq
  centerValid : t.centerValid = true
  div : t.div = d
  cdiv : t.cdiv = d

theorem afterSmall_tuneKept (b : Bytes6) (s : State) (e1 e2 e3 : Bool) : s.TuneKept (afterSmall b s e1 e2 e3) := by
  rw [afterSmall_frame]; exact ⟨rfl, rfl, rfl⟩

theorem afterLarge_tuneKept (b : Bytes6) (s : State) (e1 e2 e3 e4 : Bool) :
    s.TuneKept (afterLarge b s e1 e2 e3 e4) := by
  rw [afterLarge_frame]; exact ⟨rfl, rfl, rfl⟩

theorem commitTune_afterLarge {s : State} {d : Divider} {b : Bytes6}
    (h : solveDivider s.params s.freq s.grade = some d) :
    s.Committed
      (commitTune (afterLarge b { s with err := .ok, path := false, div := d, img := b } false false false false)) d :=
  ⟨h, rfl, rfl, rfl, rfl, rfl, rfl, rfl⟩

/-- SETFREQ commits, or it keeps the smooth-tune state (spec/46_pipeline.md R233, R240). -/
theorem SetfreqOutcome.tune {s t : State} (h : SetfreqOutcome s t) : s.TuneKept t ∨ ∃ d, s.Committed t d := by
  cases h with
  | refused | smallError | noDivider | largeError => exact .inl ⟨rfl, rfl, rfl⟩
  | smallWritten => exact .inl (afterSmall_tuneKept ..)
  | largeFailed => exact .inl (afterLarge_tuneKept ..)
  | committed d b hauto hlarge hsolve => exact .inr ⟨d, commitTune_afterLarge hsolve⟩

/-- SETFREQ keeps DIV, or DIV becomes a result of the solver. -/
theorem SetfreqOutcome.div {s t : State} (h : SetfreqOutcome s t) :
    t.div = s.div ∨ solveDivider s.params s.freq s.grade = some t.div := by
  cases h with
  | refused | smallError | noDivider => exact .inl rfl
  | smallWritten => rw [afterSmall_frame]; exact .inl rfl
  | largeError d e hauto hlarge hsolve => exact .inr hsolve
  | largeFailed d b e1 e2 e3 e4 hauto hlarge hsolve => rw [afterLarge_frame]; exact .inr hsolve
  | committed d b hauto hlarge hsolve => exact .inr hsolve

/-! ### The commands -/

/-- The part of the table of writers (spec/10_state.md R20) that the invariant and the bus discipline need. -/
structure KeptByOthers (i : Instr) (s t : State) : Prop where
  params : t.params = s.params
  div : i ≠ .solve → i ≠ .setfreq → t.div = s.div
  tune : i ≠ .setfreq → t.cdiv = s.cdiv ∧ t.center = s.center ∧ t.path = s.path
  centerValid : i ≠ .setfreq → i ≠ .online → t.centerValid = s.centerValid
  bus : i ≠ .wrlarge → i ≠ .wrsmall → i ≠ .setfreq → i ≠ .detect → t.trace = s.trace ∧ t.errIn = s.errIn

theorem commandState_keptByOthers (i : Instr) (s : State) : KeptByOthers i s (commandState i s) := by
  obtain ⟨-, -, -, -, -, -, -, params, -, -, -, -, -, div, -, tune, centerValid, -, -, bus⟩ :=
    Proofs.onlyNamedWritersWrite i s _ (exec_eq_next i s)
  exact ⟨params, div, tune, centerValid, bus⟩

/-- Only SETFREQ and ONLINE write the smooth-tune state, ONLINE only CENTER_VALID. -/
theorem commandState_tune {i : Instr} (s : State) (hset : i ≠ .setfreq) :
    (commandState i s).center = s.center ∧ (commandState i s).cdiv = s.cdiv ∧
      (i ≠ .online → (commandState i s).centerValid = s.centerValid) := by
  have hkept := commandState_keptByOthers i s
  obtain ⟨hcdiv, hcenter, -⟩ := hkept.tune hset
  exact ⟨hcenter, hcdiv, hkept.centerValid hset⟩

/-- DIV after a command is as before or a result of the solver. -/
theorem commandState_div (i : Instr) (s : State) :
    (commandState i s).div = s.div ∨ solveDivider s.params s.freq s.grade = some (commandState i s).div := by
  cases i with
  | solve =>
    rw [commandState]
    cases hsolve : solveDivider s.params s.freq s.grade with
    | none => rw [solveState_of_none hsolve]; exact .inl rfl
    | some d => rw [solveState_of_some hsolve]; exact .inr rfl
  | setfreq => exact (setfreqState_outcome s).div
  | _ => exact .inl ((commandState_keptByOthers _ s).div (by decide) (by decide))

/-! ### The invariant -/

/-- The invariant after an update that keeps the smooth-tune state or unsets the center, and that writes legal dividers to
DIV if any. -/
theorem inv_of_tune {s t : State} (h : s.Inv) (hparams : t.params = s.params)
    (hdiv : t.div = s.div ∨ t.div = Divider.unset ∨ t.div.Legal) (hcenter : t.center = s.center)
    (hcdiv : t.cdiv = s.cdiv) (hvalid : t.centerValid = true → s.centerValid = true) : t.Inv := by
  obtain ⟨hwf, hd, hcd, hc⟩ := h
  refine ⟨hparams ▸ hwf, ?_, hcdiv ▸ hcd, fun hv => ?_⟩
  · rcases hdiv with hdiv | hdiv
    · exact hdiv ▸ hd
    · exact hdiv
  · rw [hparams, hcenter, hcdiv]
    exact hc (hvalid hv)

/-- A commit establishes the invariant anew: the divider is a result of the solver for the new center (R145 (1), (5)). -/
theorem inv_of_committed {s t : State} {d : Divider} (hwf : s.params.WellFormed) (hparams : t.params = s.params)
    (h : s.Committed t d) : t.Inv := by
  have hlegal : d.Legal := legal_of_solveDivider hwf.1 h.solved
  refine ⟨hparams ▸ hwf, .inr (h.div ▸ hlegal), .inr (h.cdiv ▸ hlegal), fun _ => ⟨h.cdiv ▸ hlegal, ?_⟩⟩
  rw [hparams, h.cdiv, h.center]
  exact dcoMinQ21_le_of_solveDivider h.solved

/-- Every command keeps the invariant. -/
theorem commandState_inv (i : Instr) {s : State} (h : s.Inv) : (commandState i s).Inv := by
  have hwf : s.params.WellFormed := h.1
  have hparams := (commandState_keptByOthers i s).params
  have hdiv : (commandState i s).div = s.div ∨ (commandState i s).div = Divider.unset ∨
      (commandState i s).div.Legal :=
    (commandState_div i s).imp_right fun hsolve => .inr (legal_of_solveDivider hwf.1 hsolve)
  by_cases hset : i = .setfreq
  · subst hset
    rcases (setfreqState_outcome s).tune with ⟨hcenter, hcdiv, hvalid⟩ | ⟨d, hcommit⟩
    · exact inv_of_tune h hparams hdiv hcenter hcdiv fun hv => hvalid ▸ hv
    · exact inv_of_committed hwf hparams hcommit
  · obtain ⟨hcenter, hcdiv, hvalid⟩ := commandState_tune s hset
    refine inv_of_tune h hparams hdiv hcenter hcdiv fun hv => ?_
    by_cases honline : i = .online
    · subst honline; cases hv
    · exact hvalid honline ▸ hv

end Sys2Proof.Machine

namespace Sys2Proof.Proofs

open Sys2Proof.Machine

/-- Settles O50, by the cases of a step: a command keeps the invariant because DIV and CDIV are only ever written with
results of the solver, a host write reaches none of the fields it speaks of, and reset unsets them. -/
theorem invariantKeptByEveryStep : Obligations.InvariantKeptByEveryStep := by
  intro s t h hstep
  cases stepOutcome_of_step hstep with
  | idle => exact h
  | read => exact h
  | command i rest => exact commandState_inv i (s := { s with hostIn := rest }) h
  | illegal => exact h
  | write a v rest =>
    obtain ⟨f, x, p, g, m, ma, mb, dv, pr, im, hwrite⟩ := hostWrite_frame { s with hostIn := rest } a v
    rw [hwrite]
    exact inv_of_tune h rfl (.inl rfl) rfl rfl id
  | reset => exact ⟨h.1, .inl rfl, .inl rfl, fun hv => by cases hv⟩

/-- Settles O51: the default parameters are legal and every divider is unset. -/
theorem invariantHoldsAtReset : Obligations.InvariantHoldsAtReset :=
  ⟨by decide, .inl rfl, .inl rfl, fun hv => by cases hv⟩

/-- Settles O52, by the cases of a step: SETFREQ keeps the smooth-tune state unless it commits, ONLINE only unsets
CENTER_VALID, and no other command and no host write reaches it. -/
theorem tuneStateWrittenByThreeEvents : Obligations.TuneStateWrittenByThreeEvents := by
  intro s t hstep
  cases stepOutcome_of_step hstep with
  | idle => exact .inl ⟨rfl, rfl, rfl⟩
  | read => exact .inl ⟨rfl, rfl, rfl⟩
  | illegal => exact .inl ⟨rfl, rfl, rfl⟩
  | reset rest hin => exact .inr (.inr (.inr ⟨rest, hin⟩))
  | write a v rest =>
    obtain ⟨f, x, p, g, m, ma, mb, dv, pr, im, hwrite⟩ := hostWrite_frame { s with hostIn := rest } a v
    rw [hwrite]
    exact .inl ⟨rfl, rfl, rfl⟩
  | command i rest hin =>
    by_cases hset : i = .setfreq
    · subst hset
      rcases (setfreqState_outcome { s with hostIn := rest }).tune with hkept | ⟨d, hcommit⟩
      · exact .inl hkept
      · exact .inr (.inl ⟨rest, hin, hcommit.err, hcommit.path, hcommit.seq, hcommit.center, hcommit.centerValid,
          hcommit.cdiv.trans hcommit.div.symm⟩)
    · obtain ⟨hcenter, hcdiv, hvalid⟩ := commandState_tune { s with hostIn := rest } hset
      by_cases honline : i = .online
      · subst honline
        exact .inr (.inr (.inl ⟨rest, hin, hcenter, hcdiv, rfl⟩))
      · exact .inl ⟨hcenter, hcdiv, hvalid honline⟩

end Sys2Proof.Proofs

/-! PROOF. The fixed-point unit: the shift-and-add multiplier, rounding to nearest, and the restoring divider, each by an
invariant of its steps (spec/40_fixed_point.md R123, R125, R128). -/

namespace Sys2Proof.Machine

/-- A number cut at bit j is twice the number cut one bit higher, plus bit j. -/
theorem div_two_pow_eq_double_add_testBit (n j : Nat) : n / 2 ^ j = 2 * (n / 2 ^ (j + 1)) + (n.testBit j).toNat := by
  rw [Nat.toNat_testBit, Nat.pow_succ, ← Nat.div_div_eq_div_mul, Nat.div_add_mod]

/-! ### The multiplier (R123) -/

/-- One step of the multiplier, where the new accumulator fits 48 bits: it doubles and adds the multiplicand or nothing. -/
theorem mulSerial_succ_toNat {a : BitVec 16} {b : BitVec 32} {k : Nat}
    (hfits : 2 * (mulSerial a b k).toNat + a.toNat * (b.getLsbD (31 - k)).toNat < 2 ^ 48) :
    (mulSerial a b (k + 1)).toNat = 2 * (mulSerial a b k).toNat + a.toNat * (b.getLsbD (31 - k)).toNat := by
  cases hbit : b.getLsbD (31 - k) with
  | false => simp [mulSerial, hbit, Nat.shiftLeft_eq] at hfits ⊢; omega
  | true => simp [mulSerial, hbit, Nat.shiftLeft_eq] at hfits ⊢; omega

/-- After k steps the accumulator is the product with the k high bits of the multiplier. -/
theorem mulSerial_toNat (a : BitVec 16) (b : BitVec 32) {k : Nat} (hk : k ≤ 32) :
    (mulSerial a b k).toNat = a.toNat * (b.toNat / 2 ^ (32 - k)) := by
  induction k with
  | zero => simp [mulSerial, Nat.div_eq_of_lt b.isLt]
  | succ k ih =>
    have hcut : b.toNat / 2 ^ (31 - k) = 2 * (b.toNat / 2 ^ (32 - k)) + (b.getLsbD (31 - k)).toNat := by
      rw [div_two_pow_eq_double_add_testBit, show 31 - k + 1 = 32 - k by omega]
      rfl
    have hproduct : 2 * (mulSerial a b k).toNat + a.toNat * (b.getLsbD (31 - k)).toNat =
        a.toNat * (b.toNat / 2 ^ (31 - k)) := by
      rw [ih (by omega), hcut]; ring
    have hfits : a.toNat * (b.toNat / 2 ^ (31 - k)) < 2 ^ 48 :=
      ((Nat.mul_le_mul_left _ (Nat.div_le_self ..)).trans (toNat_mul_toNat_le a b)).trans_lt largest_product_lt
    rw [mulSerial_succ_toNat (hproduct ▸ hfits), hproduct, show 32 - (k + 1) = 31 - k by omega]

/-! ### Rounding to nearest (R125) -/

/-- Rounding an exact half up is cutting after adding one half. -/
theorem div_add_round (D : Nat) {x : Nat} (hx : 0 < x) :
    D / x + (if x ≤ 2 * (D % x) then 1 else 0) = (2 * D + x) / (2 * x) := by
  have hsplit : x * (D / x) + D % x = D := Nat.div_add_mod D x
  have hlt : D % x < x := Nat.mod_lt D hx
  symm
  rw [Nat.div_eq_iff (by omega)]
  split
  · have hround : (D / x + 1) * (2 * x) = 2 * (x * (D / x)) + 2 * x := by ring
    omega
  · have hcut : (D / x + 0) * (2 * x) = 2 * (x * (D / x)) := by ring
    omega

theorem divround_eq (p : Params) (v : BitVec 48) {x : BitVec 32} (hx : x ≠ 0) :
    divround p v x = (2 * (v.toNat * 2 ^ (p.rfreqFrac + 3)) + x.toNat) / (2 * x.toNat) :=
  div_add_round _ (toNat_pos_of_ne_zero hx)

/-- The quotient rounded to nearest is within one half of the exact quotient, both times twice the divisor. -/
theorem divround_bounds (p : Params) (v : BitVec 48) {x : BitVec 32} (hx : x ≠ 0) :
    2 * (divround p v x * x.toNat) ≤ 2 * (v.toNat * 2 ^ (p.rfreqFrac + 3)) + x.toNat ∧
      2 * (v.toNat * 2 ^ (p.rfreqFrac + 3)) < 2 * (divround p v x * x.toNat) + x.toNat := by
  have hpos := toNat_pos_of_ne_zero hx
  rw [divround_eq p v hx]
  generalize v.toNat * 2 ^ (p.rfreqFrac + 3) = D
  have hle := Nat.mul_div_le (2 * D + x.toNat) (2 * x.toNat)
  have hlt := Nat.lt_mul_div_succ (2 * D + x.toNat) (show 0 < 2 * x.toNat by omega)
  constructor <;> nlinarith

/-- An exact half would make the divisor, times an odd number, a multiple of 2^32. -/
theorem two_mul_mod_ne {D x : Nat} (hx : 0 < x) (hlt : x < 2 ^ 32) (hdvd : 2 ^ 32 ∣ 2 * D) : 2 * (D % x) ≠ x := by
  intro htie
  have hodd : 2 * D = (2 * (D / x) + 1) * x := by
    have hsplit := Nat.div_add_mod D x
    nlinarith
  have hcoprime : Nat.Coprime (2 ^ 32) (2 * (D / x) + 1) :=
    Nat.Coprime.pow_left 32 (Nat.coprime_two_left.mpr ⟨D / x, rfl⟩)
  have hdvdx : 2 ^ 32 ∣ x := hcoprime.dvd_of_dvd_mul_left (hodd ▸ hdvd)
  exact absurd (Nat.le_of_dvd hx hdvdx) (by omega)

/-! ### The restoring divider (R128) -/

/-- The remainder shifted left with the next bit of the dividend: with a remainder below 2^32 nothing is lost. -/
theorem shiftIn_toNat {r : BitVec 33} (bit : Bool) (hr : r.toNat < 2 ^ 32) :
    ((r <<< 1) ||| (BitVec.ofBool bit).setWidth 33).toNat = 2 * r.toNat + bit.toNat := by
  have hbit : bit.toNat < 2 ^ 1 := bit.toNat_lt
  have hshift : r.toNat <<< 1 % 2 ^ 33 = r.toNat <<< 1 := Nat.mod_eq_of_lt (by rw [Nat.shiftLeft_eq]; omega)
  have hwide : bit.toNat % 2 ^ 33 = bit.toNat := Nat.mod_eq_of_lt (by omega)
  rw [BitVec.toNat_or, BitVec.toNat_shiftLeft, BitVec.toNat_setWidth, BitVec.toNat_ofBool, hshift, hwide,
    ← Nat.shiftLeft_add_eq_or_of_lt hbit, Nat.shiftLeft_eq]
  omega

/-- One step of the divider takes in one bit: what it has divided so far doubles and gains that bit, and the remainder
stays below the divisor. -/
theorem divStep_spec {x : BitVec 32} (bit : Bool) {w : SerialDivider} (hrem : w.rem.toNat < x.toNat) :
    (divStep x bit w).rem.toNat < x.toNat ∧
      (divStep x bit w).quo * x.toNat + (divStep x bit w).rem.toNat =
        2 * (w.quo * x.toNat + w.rem.toNat) + bit.toNat := by
  have hx := x.isLt
  have hbit := bit.toNat_lt
  have hr := shiftIn_toNat (r := w.rem) bit (by omega)
  have hwide : (x.setWidth 33).toNat = x.toNat := by
    rw [BitVec.toNat_setWidth, Nat.mod_eq_of_lt (by omega)]
  simp only [divStep, BitVec.le_def, hr, hwide]
  split
  · next hge =>
    dsimp only
    rw [BitVec.toNat_sub_of_le (by rw [BitVec.le_def, hr, hwide]; exact hge), hr, hwide]
    constructor
    · omega
    · have hdouble : (2 * w.quo + 1) * x.toNat = 2 * (w.quo * x.toNat) + x.toNat := by ring
      omega
  · rw [hr]
    constructor
    · omega
    · ring

/-- After k steps the divider has divided the k high bits of the dividend. -/
theorem divSerial_spec {d n : Nat} {x : BitVec 32} (hx : x ≠ 0) (hd : d < 2 ^ n) {k : Nat} (hk : k ≤ n) :
    (divSerial d x n k).rem.toNat < x.toNat ∧
      (divSerial d x n k).quo * x.toNat + (divSerial d x n k).rem.toNat = d / 2 ^ (n - k) := by
  induction k with
  | zero => simp [divSerial, toNat_pos_of_ne_zero hx, Nat.div_eq_of_lt hd]
  | succ k ih =>
    obtain ⟨hrem, hvalue⟩ := ih (by omega)
    obtain ⟨hrem', hvalue'⟩ := divStep_spec (d.testBit (n - 1 - k)) hrem
    refine ⟨hrem', hvalue'.trans ?_⟩
    rw [hvalue, show n - (k + 1) = n - 1 - k by omega, div_two_pow_eq_double_add_testBit d (n - 1 - k),
      show n - 1 - k + 1 = n - k by omega]

/-- The dividend with one more place fits the steps of the divider. -/
theorem two_mul_dividend_lt (p : Params) (v : BitVec 48) : 2 * dividend p v < 2 ^ (48 + divShift p + 1) := by
  have hlt : dividend p v < 2 ^ 48 * 2 ^ divShift p := Nat.mul_lt_mul_of_pos_right v.isLt (Nat.two_pow_pos _)
  rw [← Nat.pow_add] at hlt
  rw [Nat.pow_succ]
  omega

/-- The divider run to its end, with its last bit added back, rounds to nearest. -/
theorem divroundSerial_eq (p : Params) (v : BitVec 48) {x : BitVec 32} (hx : x ≠ 0) :
    divroundSerial p v x = divround p v x := by
  have hpos := toNat_pos_of_ne_zero hx
  obtain ⟨hrem, hvalue⟩ := divSerial_spec hx (two_mul_dividend_lt p v) le_rfl
  rw [Nat.sub_self, Nat.pow_zero, Nat.div_one] at hvalue
  have hquo : (divSerial (2 * dividend p v) x (48 + divShift p + 1) (48 + divShift p + 1)).quo =
      2 * dividend p v / x.toNat := by
    symm
    rw [Nat.div_eq_iff hpos]
    omega
  rw [divround_eq p v hx]
  calc divroundSerial p v x
      = 2 * dividend p v / x.toNat / 2 + 2 * dividend p v / x.toNat % 2 := by rw [divroundSerial, hquo]
    _ = (2 * dividend p v / x.toNat + 1) / 2 := by omega
    _ = (2 * dividend p v + x.toNat) / x.toNat / 2 := by rw [Nat.add_div_right _ hpos]
    _ = (2 * dividend p v + x.toNat) / (2 * x.toNat) := by rw [Nat.div_div_eq_div_mul, Nat.mul_comm x.toNat]

end Sys2Proof.Machine

namespace Sys2Proof.Proofs

open Sys2Proof.Machine

/-- Settles O14, by induction on the steps. -/
theorem shiftAddMultiplierAgrees : Obligations.ShiftAddMultiplierAgrees := by
  intro a b
  refine ⟨BitVec.eq_of_toNat_eq ?_, fun k hk => mulSerial_toNat a b hk⟩
  rw [mulSerial_toNat a b le_rfl, mul16x32_toNat, Nat.sub_self, Nat.pow_zero, Nat.div_one]

/-- Settles O15: with a shift of at least 31 twice the dividend is a multiple of 2^32, which excludes an exact half. -/
theorem divroundRoundsToNearest : Obligations.DivroundRoundsToNearest := by
  intro p v x hx
  obtain ⟨hle, hlt⟩ := divround_bounds p v hx
  refine ⟨divround_eq p v hx, hle, hlt, fun hfrac => two_mul_mod_ne (toNat_pos_of_ne_zero hx) x.isLt ?_⟩
  have hshift : 2 * (v.toNat * 2 ^ (p.rfreqFrac + 3)) = 2 ^ (p.rfreqFrac + 4) * v.toNat := by ring
  rw [hshift]
  exact (pow_dvd_pow 2 (by omega)).mul_right _

/-- Settles O16, by the invariant of the division steps. -/
theorem restoringDividerComputesDivround : Obligations.RestoringDividerComputesDivround := by
  intro p v x hx
  exact ⟨divroundSerial_eq p v hx, fun k hk => (divSerial_spec hx (two_mul_dividend_lt p v) hk).1⟩

end Sys2Proof.Proofs

/-! PROOF. The host register space: each register at its address, least significant byte first, what a host write changes in
it, and the space after reset (spec/20_memory.md R61 to R66, spec/10_state.md R55). -/

namespace Sys2Proof.Machine

/-! ### Reading a register at its address -/

/-- Every byte of every row of the map is found at its address (R64). -/
theorem locate_row {row : MapRow} (h : row ∈ hostMap) {k : Nat} (hk : k < row.len) :
    locate (BitVec.ofNat 7 (row.base + k)) = some (row.reg, k) := by
  have hall : ∀ row ∈ hostMap, ∀ k < row.len, locate (BitVec.ofNat 7 (row.base + k)) = some (row.reg, k) := by decide
  exact hall row h k hk

theorem hostRead_row {row : MapRow} (h : row ∈ hostMap) {k : Nat} (hk : k < row.len) (s : State) :
    hostRead s (BitVec.ofNat 7 (row.base + k)) = readReg s row.reg k :=
  hostRead_of (locate_row h hk)

theorem hostRead_reserved {a : BitVec 7} (h : locate a = none) (s : State) : hostRead s a = 0 := by
  simp only [hostRead, h]

/-- The n low bytes of a number, each at its place value, spell it modulo 256^n. -/
theorem sum_bytes_eq_mod (v n : Nat) : ((List.range n).map fun k => v / 256 ^ k % 256 * 256 ^ k).sum = v % 256 ^ n := by
  induction n with
  | zero => simp [Nat.mod_one]
  | succ n ih =>
    rw [List.range_succ, List.map_append, List.sum_append, ih, Nat.mod_pow_succ]
    simp [Nat.mul_comm]

/-- The bytes at the addresses of a register, least significant first, spell it (R66). -/
theorem sum_hostRead_row {w : Nat} {row : MapRow} (h : row ∈ hostMap) (s : State) (v : BitVec w) (hw : w ≤ 8 * row.len)
    (hread : ∀ k, readReg s row.reg k = getByte v k) :
    ((List.range row.len).map fun k => (hostRead s (BitVec.ofNat 7 (row.base + k))).toNat * 256 ^ k).sum = v.toNat := by
  have hbytes : ∀ k ∈ List.range row.len, (hostRead s (BitVec.ofNat 7 (row.base + k))).toNat * 256 ^ k =
      v.toNat / 256 ^ k % 256 * 256 ^ k := by
    intro k hk
    rw [hostRead_row h (List.mem_range.mp hk), hread, getByte_toNat]
  have hlt : v.toNat < 256 ^ row.len :=
    calc v.toNat < 2 ^ w := v.isLt
      _ ≤ 2 ^ (8 * row.len) := Nat.pow_le_pow_right (by decide) hw
      _ = 256 ^ row.len := Nat.pow_mul 2 8 row.len
  rw [List.map_congr_left hbytes, sum_bytes_eq_mod, Nat.mod_eq_of_lt hlt]

/-- A register of at most eight bits is the number its one byte is. -/
theorem getByte_zero_toNat {w : Nat} (v : BitVec w) (hw : w ≤ 8) : (getByte v 0).toNat = v.toNat := by
  have hlt : v.toNat < 256 := v.isLt.trans_le (Nat.pow_le_pow_right (by decide) hw)
  rw [getByte_toNat, Nat.pow_zero, Nat.div_one, Nat.mod_eq_of_lt hlt]

theorem statusByte_toNat (s : State) : (statusByte s).toNat =
    match s.err with | .ok => 0 | .noDiv => 1 | .dco => 2 | .bus => 3 | .cfg => 4 | .illegal => 5 := by
  unfold statusByte
  cases s.err <;> rfl

theorem seqByte_toNat (s : State) : (seqByte s).toNat =
    match s.seq with | .idle => 0 | .frozen => 1 | .written => 2 | .unfrozen => 3 | .committed => 4 := by
  unfold seqByte
  cases s.seq <;> rfl

theorem flagsByte_toNat (s : State) : (flagsByte s).toNat =
    s.centerValid.toNat + 2 * s.result.toNat + 4 * s.path.toNat + 8 * s.qovf.toNat := by
  have hvalid := s.centerValid.toNat_lt
  have hresult := s.result.toNat_lt
  have hpath := s.path.toNat_lt
  have hqovf := s.qovf.toNat_lt
  rw [flagsByte, BitVec.toNat_ofNat, Nat.mod_eq_of_lt (by omega)]

/-! ### Writing a byte -/

/-- How many bytes of a register take all eight bits of a host write; none in a read-only register, in CMD, and in the two
narrow registers (R62). -/
def HostReg.fullBytes : HostReg → Nat
  | .freq | .xtal | .mb | .dvs => 4
  | .ppm | .ma => 2
  | .prod | .img => 6
  | _ => 0

theorem readReg_writeReg_same (s : State) {r : HostReg} {k : Nat} (v : Byte) (hk : k < r.fullBytes) :
    readReg (writeReg s r k v) r k = v := by
  cases r with
  | freq | xtal | mb | dvs => exact getByte_setByte _ k v (by simp only [HostReg.fullBytes] at hk; omega)
  | ppm | ma => exact getByte_setByte _ k v (by simp only [HostReg.fullBytes] at hk; omega)
  | prod => exact getByte_setByte _ k v (by simp only [HostReg.fullBytes] at hk; omega)
  | img => exact getSix_setSix _ k v hk
  | _ => simp [HostReg.fullBytes] at hk

/-- Writing a byte of one register leaves every other register alone. -/
theorem readReg_writeReg_of_ne (s : State) {r r' : HostReg} (k k' : Nat) (v : Byte) (h : r' ≠ r) :
    readReg (writeReg s r k v) r' k' = readReg s r' k' := by
  cases r with
  | quot | divHs | divN1 | divN | cdivHs | cdivN1 | cdivN | center | status | flags | seq | cmd | rbuf => rfl
  | freq | xtal | ppm | grade | addrmode | ma | mb | dvs | prod | img =>
    cases r' <;> first | rfl | exact absurd rfl h

/-- Writing a byte of a register leaves its other bytes alone. -/
theorem readReg_writeReg_byte_ne (s : State) {r : HostReg} {k k' : Nat} (v : Byte) (h : k' ≠ k)
    (hnarrow : r = .grade ∨ r = .addrmode → k' = k) : readReg (writeReg s r k v) r k' = readReg s r k' := by
  cases r with
  | freq | xtal | mb | dvs | ppm | ma | prod => exact getByte_setByte_ne _ k k' v h
  | img => exact getSix_setSix_ne _ k k' v h
  | grade => exact absurd (hnarrow (.inl rfl)) h
  | addrmode => exact absurd (hnarrow (.inr rfl)) h
  | _ => rfl

/-- GRADE and ADDRMODE have one byte each. -/
theorem locate_narrow {a : BitVec 7} {r : HostReg} {k : Nat} (h : locate a = some (r, k))
    (hr : r = .grade ∨ r = .addrmode) : k = 0 := by
  have hall : ∀ a : BitVec 7, ∀ x, locate a = some x → x.1 = .grade ∨ x.1 = .addrmode → x.2 = 0 := by decide
  exact hall a _ h hr

/-- A host write changes no byte at another address. -/
theorem hostRead_hostWrite_of_ne (s : State) {a b : BitVec 7} (v : Byte) (hb : b ≠ a) :
    hostRead (hostWrite s a v) b = hostRead s b := by
  cases ha : locate a with
  | none => simp only [hostWrite, ha]
  | some x =>
    obtain ⟨r, k⟩ := x
    rw [hostWrite_of ha]
    cases hlb : locate b with
    | none => rw [hostRead_reserved hlb, hostRead_reserved hlb]
    | some y =>
      obtain ⟨r', k'⟩ := y
      rw [hostRead_of hlb, hostRead_of hlb]
      by_cases hr : r' = r
      · subst hr
        refine readReg_writeReg_byte_ne s v (fun hk => hb ?_) fun hnarrow => ?_
        · subst hk; exact locate_inj hlb ha
        · rw [locate_narrow hlb hnarrow, locate_narrow ha hnarrow]
      · exact readReg_writeReg_of_ne s k k' v hr

/-! ### Where a write is stored -/

/-- The addresses of the bytes that take all eight bits. -/
theorem locate_fullByte {a : BitVec 7} (h : a.toNat ≤ 0x09 ∨ (0x0C ≤ a.toNat ∧ a.toNat ≤ 0x0D) ∨
    (0x10 ≤ a.toNat ∧ a.toNat ≤ 0x1D) ∨ (0x30 ≤ a.toNat ∧ a.toNat ≤ 0x35)) :
    ∃ r k, locate a = some (r, k) ∧ k < r.fullBytes := by
  have hall : ∀ a : BitVec 7, (a.toNat ≤ 0x09 ∨ (0x0C ≤ a.toNat ∧ a.toNat ≤ 0x0D) ∨
      (0x10 ≤ a.toNat ∧ a.toNat ≤ 0x1D) ∨ (0x30 ≤ a.toNat ∧ a.toNat ≤ 0x35)) →
      ∃ x, locate a = some x ∧ x.2 < x.1.fullBytes := by decide
  obtain ⟨⟨r, k⟩, hl, hk⟩ := hall a h
  exact ⟨r, k, hl, hk⟩

theorem hostRead_hostWrite_same (s : State) {a : BitVec 7} (v : Byte) (h : a.toNat ≤ 0x09 ∨
    (0x0C ≤ a.toNat ∧ a.toNat ≤ 0x0D) ∨ (0x10 ≤ a.toNat ∧ a.toNat ≤ 0x1D) ∨ (0x30 ≤ a.toNat ∧ a.toNat ≤ 0x35)) :
    hostRead (hostWrite s a v) a = v := by
  obtain ⟨r, k, hl, hk⟩ := locate_fullByte h
  rw [hostWrite_of hl, hostRead_of hl, readReg_writeReg_same s v hk]

/-- GRADE keeps the low two bits. -/
theorem hostRead_hostWrite_grade (s : State) (v : Byte) :
    (hostRead (hostWrite s 0x0A v) 0x0A).toNat = v.toNat % 4 := by
  have hl : locate 0x0A = some (.grade, 0) := by decide
  rw [hostWrite_of hl, hostRead_of hl]
  exact (getByte_zero_toNat _ (by decide)).trans (BitVec.toNat_setWidth ..)

/-- ADDRMODE keeps the low three bits. -/
theorem hostRead_hostWrite_addrmode (s : State) (v : Byte) :
    (hostRead (hostWrite s 0x0B v) 0x0B).toNat = v.toNat % 8 := by
  have hl : locate 0x0B = some (.addrmode, 0) := by decide
  rw [hostWrite_of hl, hostRead_of hl]
  exact (getByte_zero_toNat _ (by decide)).trans (BitVec.toNat_setWidth ..)

/-- A write at a read-only or reserved address is ignored (R62). -/
theorem hostWrite_ignored (s : State) {a : BitVec 7} (v : Byte) (h : (0x0E ≤ a.toNat ∧ a.toNat ≤ 0x0F) ∨
    (0x1E ≤ a.toNat ∧ a.toNat ≤ 0x2F) ∨ 0x36 ≤ a.toNat) : hostWrite s a v = s := by
  have hall : ∀ a : BitVec 7, ((0x0E ≤ a.toNat ∧ a.toNat ≤ 0x0F) ∨ (0x1E ≤ a.toNat ∧ a.toNat ≤ 0x2F) ∨
      0x36 ≤ a.toNat) → ∀ x, locate a = some x → x.1 ≠ .grade ∧ x.1 ≠ .addrmode ∧ x.1.fullBytes = 0 := by decide
  cases hl : locate a with
  | none => simp only [hostWrite, hl]
  | some x =>
    obtain ⟨r, k⟩ := x
    obtain ⟨hgrade, haddrmode, hfull⟩ := hall a h _ hl
    rw [hostWrite_of hl]
    cases r with
    | grade => exact absurd rfl hgrade
    | addrmode => exact absurd rfl haddrmode
    | freq | xtal | mb | dvs | ppm | ma | prod | img => simp [HostReg.fullBytes] at hfull
    | _ => rfl

/-! ### Fields the host does not see -/

/-- No byte of the host space is made of the parameters, the pending inputs, the outputs or the trace. -/
theorem hostRead_setUnseen (s : State) (p : Params) (hin : List HostEvent) (hout : List Byte) (ein : List Bool)
    (rx : List Byte) (tr : List BusEvent) (a : BitVec 7) :
    hostRead { s with params := p, hostIn := hin, hostOut := hout, errIn := ein, rxIn := rx, trace := tr } a =
      hostRead s a := by
  cases hl : locate a with
  | none => rw [hostRead_reserved hl, hostRead_reserved hl]
  | some x =>
    obtain ⟨r, k⟩ := x
    rw [hostRead_of hl, hostRead_of hl]
    cases r <;> rfl

theorem hostRead_reset (a : BitVec 7) : hostRead State.reset a = 0 := by
  have hall : ∀ a : BitVec 7, hostRead State.reset a = 0 := by decide
  exact hall a

end Sys2Proof.Machine

namespace Sys2Proof.Proofs

open Sys2Proof.Machine

/-- Settles O7: each row of the map reads its register byte by byte, and the bytes of a register spell it. -/
theorem registerMapIsLittleEndian : Obligations.RegisterMapIsLittleEndian := by
  intro s m word
  have hword : ∀ {w : Nat} (row : MapRow) (v : BitVec w), row ∈ hostMap → w ≤ 8 * row.len →
      (∀ k, readReg s row.reg k = getByte v k) → word row.base row.len = v.toNat :=
    fun row v hrow hw hread => sum_hostRead_row hrow s v hw hread
  have hbyte : ∀ (row : MapRow) (k : Nat), row ∈ hostMap → k < row.len →
      m (row.base + k) = (readReg s row.reg k).toNat :=
    fun row k hrow hk => congrArg BitVec.toNat (hostRead_row hrow hk s)
  have hnarrow : ∀ {w : Nat} (row : MapRow) (v : BitVec w), row ∈ hostMap → 0 < row.len → w ≤ 8 →
      readReg s row.reg 0 = getByte v 0 → m (row.base + 0) = v.toNat :=
    fun row v hrow hlen hw hread => (hbyte row 0 hrow hlen).trans (hread ▸ getByte_zero_toNat v hw)
  have hreserved : ∀ a, locate (BitVec.ofNat 7 a) = none → m a = 0 :=
    fun a ha => congrArg BitVec.toNat (hostRead_reserved ha s)
  have hsix : ∀ (row : MapRow) (x : Bytes6), row ∈ hostMap → row.len = 6 → (∀ k, readReg s row.reg k = getSix x k) →
      (List.range 6).map (fun k => m (row.base + k)) = x.toList.map BitVec.toNat :=
    fun row x hrow hlen hread => List.map_congr_left (g := fun k => (getSix x k).toNat) fun k hk =>
      (hbyte row k hrow (hlen ▸ List.mem_range.mp hk)).trans (congrArg BitVec.toNat (hread k))
  have hgaps : ∀ a ∈ [0x0E, 0x0F, 0x1E, 0x1F, 0x25, 0x26, 0x27, 0x36, 0x37], locate (BitVec.ofNat 7 a) = none := by
    decide
  have htop : ∀ a < 0x80, 0x46 ≤ a → locate (BitVec.ofNat 7 a) = none := by decide
  exact ⟨hword ⟨0x00, 4, .freq⟩ s.freq (by decide) le_rfl fun _ => rfl,
    hword ⟨0x04, 4, .xtal⟩ s.xtal (by decide) le_rfl fun _ => rfl,
    hword ⟨0x08, 2, .ppm⟩ s.ppm (by decide) le_rfl fun _ => rfl,
    hnarrow ⟨0x0A, 1, .grade⟩ s.grade (by decide) (by decide) (by decide) rfl,
    hnarrow ⟨0x0B, 1, .addrmode⟩ s.addrmode (by decide) (by decide) (by decide) rfl,
    hword ⟨0x0C, 2, .ma⟩ s.ma (by decide) le_rfl fun _ => rfl,
    hword ⟨0x10, 4, .mb⟩ s.mb (by decide) le_rfl fun _ => rfl,
    hword ⟨0x14, 4, .dvs⟩ s.dvs (by decide) le_rfl fun _ => rfl,
    hword ⟨0x18, 6, .prod⟩ s.prod (by decide) le_rfl fun _ => rfl,
    hword ⟨0x20, 5, .quot⟩ s.quot (by decide) le_rfl fun _ => rfl,
    hbyte ⟨0x28, 1, .divHs⟩ 0 (by decide) (by decide), hbyte ⟨0x29, 1, .divN1⟩ 0 (by decide) (by decide),
    hword ⟨0x2A, 2, .divN⟩ s.div.n (by decide) le_rfl fun _ => rfl,
    hbyte ⟨0x2C, 1, .cdivHs⟩ 0 (by decide) (by decide), hbyte ⟨0x2D, 1, .cdivN1⟩ 0 (by decide) (by decide),
    hword ⟨0x2E, 2, .cdivN⟩ s.cdiv.n (by decide) le_rfl fun _ => rfl,
    hsix ⟨0x30, 6, .img⟩ s.img (by decide) rfl fun _ => rfl,
    hword ⟨0x38, 4, .center⟩ s.center (by decide) le_rfl fun _ => rfl,
    (hbyte ⟨0x3C, 1, .status⟩ 0 (by decide) (by decide)).trans (statusByte_toNat s),
    (hbyte ⟨0x3D, 1, .flags⟩ 0 (by decide) (by decide)).trans (flagsByte_toNat s),
    (hbyte ⟨0x3E, 1, .seq⟩ 0 (by decide) (by decide)).trans (seqByte_toNat s),
    hbyte ⟨0x3F, 1, .cmd⟩ 0 (by decide) (by decide),
    hsix ⟨0x40, 6, .rbuf⟩ s.rbuf (by decide) rfl fun _ => rfl,
    fun a ha => hreserved a (hgaps a ha), fun a hlo hhi => hreserved a (htop a (by omega) hlo)⟩

/-- Settles O8: a host write reaches one byte of one register, and only where the register may be written. -/
theorem hostWriteThenReadBack : Obligations.HostWriteThenReadBack := by
  intro s a v rest hin ha
  have hunseen : ∀ b, hostRead { s with hostIn := rest } b = hostRead s b :=
    hostRead_setUnseen s s.params rest s.hostOut s.errIn s.rxIn s.trace
  obtain ⟨f, x, p, g, m, ma, mb, dv, pr, im, hframe⟩ := hostWrite_frame { s with hostIn := rest } a v
  refine ⟨hostWrite { s with hostIn := rest } a v, step_of_write hin ha, fun b hb => ?_, hostRead_hostWrite_same _ v,
    fun h => ?_, fun h => ?_, hostWrite_ignored _ v, ?_⟩
  · rw [hostRead_hostWrite_of_ne _ v hb, hunseen]
  · obtain rfl : a = 0x0A := BitVec.eq_of_toNat_eq h
    exact hostRead_hostWrite_grade _ v
  · obtain rfl : a = 0x0B := BitVec.eq_of_toNat_eq h
    exact hostRead_hostWrite_addrmode _ v
  · rw [hframe]
    exact ⟨rfl, rfl, rfl, rfl, rfl, rfl⟩

/-- Settles O9: all 128 bytes of the fixed reset state are evaluated. -/
theorem resetReadsZeroEverywhere : Obligations.ResetReadsZeroEverywhere :=
  ⟨hostRead_reset, rfl, rfl, rfl, rfl, rfl, rfl⟩

/-- Settles O10: the reset event is the reset state but for fields the host does not see. -/
theorem resetEventClearsRegisters : Obligations.ResetEventClearsRegisters := by
  intro s rest hin
  refine ⟨_, step_of_reset hin, fun a => ?_, rfl, rfl, rfl⟩
  exact (hostRead_setUnseen State.reset s.params rest s.hostOut s.errIn s.rxIn s.trace a).trans (hostRead_reset a)

end Sys2Proof.Proofs

/-! PROOF. Which bytes of the host space an update of each register can change, and the commands of the fixed-point unit,
DECIDE and ONLINE (spec/40_fixed_point.md R124, R127, R129, spec/43_smooth_tune.md R184, spec/46_pipeline.md R236). -/

namespace Sys2Proof.Machine

/-! ### The bytes an update can change -/

/-- Two states agree outside ranges that cover the registers they may differ in. -/
theorem sameBytesExcept_of_regs {s t : State} {l : List (Nat × Nat)} (rs : List HostReg)
    (hcover : regsInside l rs = true) (h : ∀ r, r ∉ rs → ∀ k, readReg t r k = readReg s r k) : SameBytesExcept s t l :=
  sameBytesExcept_of _ _ _ fun a r k ha hl => h r (not_mem_of_regsInside hcover a r k ha hl) k

/-- Ranges may be joined and widened. -/
theorem SameBytesExcept.mono {s t : State} {l m : List (Nat × Nat)} (h : SameBytesExcept s t l)
    (hsub : ∀ x ∈ l, ∃ y ∈ m, y.1 ≤ x.1 ∧ x.1 + x.2 ≤ y.1 + y.2) : SameBytesExcept s t m := by
  refine fun a ha => h a fun x hx hin => ?_
  obtain ⟨y, hy, hlo, hhi⟩ := hsub x hx
  exact ha y hy (by omega)

theorem sameBytesExcept_setAddrmode (s : State) (m : BitVec 3) :
    SameBytesExcept s { s with addrmode := m } [(0x0B, 1)] := by
  refine sameBytesExcept_of_regs [.addrmode] (by decide) fun r hr k => ?_
  cases r with
  | addrmode => simp at hr
  | _ => rfl

theorem sameBytesExcept_setProd (s : State) (v : BitVec 48) : SameBytesExcept s { s with prod := v } [(0x18, 6)] := by
  refine sameBytesExcept_of_regs [.prod] (by decide) fun r hr k => ?_
  cases r with
  | prod => simp at hr
  | _ => rfl

theorem sameBytesExcept_setQuot (s : State) (v : BitVec 40) : SameBytesExcept s { s with quot := v } [(0x20, 5)] := by
  refine sameBytesExcept_of_regs [.quot] (by decide) fun r hr k => ?_
  cases r with
  | quot => simp at hr
  | _ => rfl

theorem sameBytesExcept_setCdiv (s : State) (d : Divider) : SameBytesExcept s { s with cdiv := d } [(0x2C, 4)] := by
  refine sameBytesExcept_of_regs [.cdivHs, .cdivN1, .cdivN] (by decide) fun r hr k => ?_
  cases r with
  | cdivHs | cdivN1 | cdivN => simp at hr
  | _ => rfl

theorem sameBytesExcept_setImg (s : State) (b : Bytes6) : SameBytesExcept s { s with img := b } [(0x30, 6)] := by
  refine sameBytesExcept_of_regs [.img] (by decide) fun r hr k => ?_
  cases r with
  | img => simp at hr
  | _ => rfl

theorem sameBytesExcept_setCenter (s : State) (c : BitVec 32) :
    SameBytesExcept s { s with center := c } [(0x38, 4)] := by
  refine sameBytesExcept_of_regs [.center] (by decide) fun r hr k => ?_
  cases r with
  | center => simp at hr
  | _ => rfl

/-- The four flags share the byte at 0x3D. -/
theorem sameBytesExcept_setFlags (s : State) (v r p o : Bool) :
    SameBytesExcept s { s with centerValid := v, result := r, path := p, qovf := o } [(0x3D, 1)] := by
  refine sameBytesExcept_of_regs [.flags] (by decide) fun r hr k => ?_
  cases r with
  | flags => simp at hr
  | _ => rfl

theorem sameBytesExcept_setSeq (s : State) (q : Seq) : SameBytesExcept s { s with seq := q } [(0x3E, 1)] := by
  refine sameBytesExcept_of_regs [.seq] (by decide) fun r hr k => ?_
  cases r with
  | seq => simp at hr
  | _ => rfl

theorem sameBytesExcept_setRbuf (s : State) (d : Bytes6) : SameBytesExcept s { s with rbuf := d } [(0x40, 6)] := by
  refine sameBytesExcept_of_regs [.rbuf] (by decide) fun r hr k => ?_
  cases r with
  | rbuf => simp at hr
  | _ => rfl

/-- The host does not see the bus. -/
theorem sameBytesExcept_setBus (s : State) (ein : List Bool) (rx : List Byte) (tr : List BusEvent) :
    SameBytesExcept s { s with errIn := ein, rxIn := rx, trace := tr } [] :=
  fun a _ => hostRead_setUnseen s s.params s.hostIn s.hostOut ein rx tr a

/-! ### DIVR (spec/40_fixed_point.md R127) -/

theorem exec_divr (s : State) : exec .divr s = .next (divrState s) :=
  rfl

theorem divrState_of_zero {s : State} (h : s.dvs = 0) : divrState s = { s with err := .cfg } := by
  simp only [divrState, if_pos h, State.startCommand, State.fail]

theorem divrState_of_ne_zero {s : State} (h : s.dvs ≠ 0) :
    divrState s = { s with err := .ok, quot := BitVec.ofNat 40 (divround s.params s.prod s.dvs),
                           qovf := quotientOverflows (divround s.params s.prod s.dvs) } := by
  simp only [divrState, if_neg h, State.startCommand]

/-! ### The decision (spec/43_smooth_tune.md R181) -/

theorem absdiff_eq_natAbs (f c : BitVec 32) : absdiff f c = ((f.toNat : Int) - c.toNat).natAbs := by
  unfold absdiff
  split <;> omega

/-- With the center unset there is no small change. -/
theorem smallChange_of_not_valid (f c : BitVec 32) (ppm : BitVec 16) : smallChange f c false ppm = false := by
  simp [smallChange]

/-- Without a ppm limit there is no small change. -/
theorem smallChange_of_ppm_zero (f c : BitVec 32) (v : Bool) : smallChange f c v 0 = false := by
  simp [smallChange]

/-- PATH after a SETFREQ that was not refused is the decision (spec/46_pipeline.md R231). -/
theorem SetfreqOutcome.path {s t : State} (h : SetfreqOutcome s t) (hauto : s.auto = false) :
    t.path = smallChange s.freq s.center s.centerValid s.ppm := by
  cases h with
  | refused hrefused => exact absurd hrefused (by simp [hauto])
  | smallError e _ hsmall => exact hsmall.symm
  | smallWritten b e1 e2 e3 _ hsmall => rw [afterSmall_frame]; exact hsmall.symm
  | noDivider _ hlarge => exact hlarge.symm
  | largeError d e _ hlarge => exact hlarge.symm
  | largeFailed d b e1 e2 e3 e4 _ hlarge => rw [afterLarge_frame]; exact hlarge.symm
  | committed d b _ hlarge => rw [afterLarge_frame]; exact hlarge.symm

end Sys2Proof.Machine

namespace Sys2Proof.Proofs

open Sys2Proof.Machine

/-- Settles O11. -/
theorem nopClearsErrOnly : Obligations.NopClearsErrOnly :=
  ⟨decode_encode .nop, fun s => ⟨_, rfl, rfl, sameBytesExcept_setErr s .ok⟩⟩

/-- Settles O13: the product fits PROD. -/
theorem mulWritesExactProduct : Obligations.MulWritesExactProduct :=
  ⟨decode_encode .mul, fun s => ⟨_, rfl, mul16x32_toNat s.ma s.mb, rfl,
    (sameBytesExcept_setProd s _).trans (sameBytesExcept_setErr _ .ok)⟩⟩

/-- Settles O17: the divisor is tested first; QUOT takes 40 bits of the quotient rounded to nearest. -/
theorem divrDividesOrReportsCfg : Obligations.DivrDividesOrReportsCfg := by
  refine ⟨decode_encode .divr, fun s hzero => ?_, fun s hne => ?_⟩
  · rw [exec_divr, divrState_of_zero hzero]
  · refine ⟨_, (exec_divr s).trans (congrArg _ (divrState_of_ne_zero hne)), ?_, rfl, ?_⟩
    · rw [← divround_eq s.params s.prod hne]
      exact ⟨BitVec.toNat_ofNat .., decide_eq_true_iff⟩
    · exact (((sameBytesExcept_setQuot s _).trans (sameBytesExcept_setErr _ .ok)).trans
        (sameBytesExcept_setFlags _ s.centerValid s.result s.path _)).mono (by decide)

/-- Settles O30: the decision goes to RESULT. -/
theorem decideWritesSmoothTuneDecision : Obligations.DecideWritesSmoothTuneDecision := by
  refine ⟨decode_encode .decideCmd, fun s => ⟨_, rfl, ?_, rfl, ?_⟩⟩
  · exact absdiff_eq_natAbs s.freq s.center ▸ smallChange_iff s.freq s.center s.centerValid s.ppm
  · exact ((sameBytesExcept_setErr s .ok).trans
      (sameBytesExcept_setFlags _ s.centerValid _ s.path s.qovf)).mono (by decide)

/-- Settles O49: after ONLINE the center is unset, so the decision of the next SETFREQ is a large change, and none of the
outcomes of a large change sets PATH. -/
theorem onlineForcesLargeChange : Obligations.OnlineForcesLargeChange := by
  refine ⟨decode_encode .online, fun s => ⟨_, rfl, rfl, ?_, setfreqState _, exec_setfreq _, fun hauto => ?_⟩⟩
  · exact ((sameBytesExcept_setErr s .ok).trans
      (sameBytesExcept_setFlags _ false s.result s.path s.qovf)).mono (by decide)
  · exact ((setfreqState_outcome { s with err := .ok, centerValid := false }).path hauto).trans (smallChange_of_not_valid ..)

end Sys2Proof.Proofs

/-! PROOF. The register image decoded, the tuning-word calculator and CALC, and the properties of the decision
(spec/30_encoding.md R97, R98, spec/42_tuning_word.md R163 to R168, spec/43_smooth_tune.md R183). -/

namespace Sys2Proof.Machine

/-! ### pack and unpack (R97, R98) -/

/-- Decoding an encoded image gives the triple back. -/
theorem unpack_pack {hs n1 r : Nat} (h : packDomain hs n1 r) : unpack (pack hs n1 r) = ⟨hs, n1, r⟩ := by
  obtain ⟨hs_ge, hs_le, n1_ge, n1_le, hr⟩ := h
  replace hr : r < 2 ^ 38 := hr
  have hh : hs - 4 < 2 ^ 3 := by omega
  have hm : n1 - 1 < 2 ^ 7 := by omega
  rw [pack_of_packDomain ⟨hs_ge, hs_le, n1_ge, n1_le, hr⟩]
  simp only [unpack, packFields_b0_toNat r hh hm, packFields_b1_toNat _ _ hr, packFields_b2_toNat, packFields_b3_toNat,
    packFields_b4_toNat, packFields_b5_toNat, Unpacked.mk.injEq]
  omega

/-- What an image decodes to is in the ranges of R97. -/
theorem packDomain_unpack (b : Bytes6) : packDomain (unpack b).hs (unpack b).n1 (unpack b).r := by
  have h0 := b.b0.isLt
  have h1 := b.b1.isLt
  have h2 := b.b2.isLt
  have h3 := b.b3.isLt
  have h4 := b.b4.isLt
  have h5 := b.b5.isLt
  simp only [packDomain, unpack, rfreqBits]
  omega

/-- Images that decode alike are the same: every bit of the six bytes is in one of the three fields. -/
theorem unpack_injective {b c : Bytes6} (h : unpack b = unpack c) : b = c := by
  have := b.b1.isLt
  have := b.b2.isLt
  have := b.b3.isLt
  have := b.b4.isLt
  have := b.b5.isLt
  have := c.b1.isLt
  have := c.b2.isLt
  have := c.b3.isLt
  have := c.b4.isLt
  have := c.b5.isLt
  obtain ⟨hhs, hn1, hr⟩ := Unpacked.mk.inj h
  obtain ⟨b0, b1, b2, b3, b4, b5⟩ := b
  obtain ⟨c0, c1, c2, c3, c4, c5⟩ := c
  simp only [Bytes6.mk.injEq, BitVec.toNat_eq] at *
  omega

/-- Encoding a decoded image gives the six bytes back. -/
theorem pack_unpack (b : Bytes6) : pack (unpack b).hs (unpack b).n1 (unpack b).r = b :=
  unpack_injective (unpack_pack (packDomain_unpack b))

/-! ### The calculator (spec/42_tuning_word.md R163, R167) -/

/-- The range check compares whole units of 8 MHz, so it fails exactly from one unit above the limit on. -/
theorem dcoMax8_lt_est8_iff (p : Params) (d : Divider) (f : BitVec 32) :
    p.dcoMax8.toNat < est8 (mul16x32 d.n f) ↔ (p.dcoMax8.toNat + 1) * 2 ^ 24 ≤ d.n.toNat * f.toNat := by
  rw [est8, mul16x32_toNat, Nat.lt_iff_add_one_le, Nat.le_div_iff_mul_le (by decide)]

theorem calcImage_eq_dco_iff {p : Params} {f x : BitVec 32} {d : Divider} :
    calcImage p f d x = .error .dco ↔ (p.dcoMax8.toNat + 1) * 2 ^ 24 ≤ d.n.toNat * f.toNat := by
  rw [← dcoMax8_lt_est8_iff]
  rcases calcImage_cases p f d x with ⟨hfast, h⟩ | ⟨hfast, -, h⟩ | ⟨hfast, -, -, h⟩
  · simp [h, hfast]
  · simp [h, hfast]
  · simp [h, hfast]

theorem calcImage_eq_cfg_iff {p : Params} {f x : BitVec 32} {d : Divider} :
    calcImage p f d x = .error .cfg ↔ d.n.toNat * f.toNat < (p.dcoMax8.toNat + 1) * 2 ^ 24 ∧
      (x = 0 ∨ 2 ^ 38 ≤ divround p (mul16x32 d.n f) x) := by
  rw [← not_le, ← dcoMax8_lt_est8_iff]
  rcases calcImage_cases p f d x with ⟨hfast, h⟩ | ⟨hfast, hcfg, h⟩ | ⟨hfast, hx, hfits, h⟩
  · simp [h, hfast]
  · simp only [h, hfast, hcfg, not_false_eq_true, and_self]
  · simp only [h, hx, not_le.mpr hfits, or_self, and_false, reduceCtorEq]

theorem calcImage_eq_ok_iff {p : Params} {f x : BitVec 32} {d : Divider} {b : Bytes6} :
    calcImage p f d x = .ok b ↔ d.n.toNat * f.toNat < (p.dcoMax8.toNat + 1) * 2 ^ 24 ∧ x ≠ 0 ∧
      divround p (mul16x32 d.n f) x < 2 ^ 38 ∧ b = pack d.hs.toNat d.n1.toNat (divround p (mul16x32 d.n f) x) := by
  rw [← not_le, ← dcoMax8_lt_est8_iff]
  rcases calcImage_cases p f d x with ⟨hfast, h⟩ | ⟨hfast, hx | hbig, h⟩ | ⟨hfast, hx, hfits, h⟩
  · simp [h, hfast]
  · rw [h]; simp [hx]
  · simp only [h, not_lt.mpr hbig, false_and, and_false, reduceCtorEq]
  · simp only [h, hfast, hx, hfits, ne_eq, not_false_eq_true, true_and, Except.ok.injEq, eq_comm]

/-- The two errors of the calculator. -/
theorem calcImage_error {p : Params} {f x : BitVec 32} {d : Divider} {e : Err} (h : calcImage p f d x = .error e) :
    e = .dco ∨ e = .cfg := by
  rcases calcImage_cases p f d x with ⟨-, hdco⟩ | ⟨-, -, hcfg⟩ | ⟨-, -, -, hok⟩
  · cases hdco.symm.trans h; exact .inl rfl
  · cases hcfg.symm.trans h; exact .inr rfl
  · cases hok.symm.trans h

/-- An image for a divider in range decodes to that divider and to the rounded quotient. -/
theorem unpack_of_calcImage {p : Params} {f x : BitVec 32} {d : Divider} {b : Bytes6} (hs_ge : 4 ≤ d.hs.toNat)
    (hs_le : d.hs.toNat ≤ 11) (n1_ge : 1 ≤ d.n1.toNat) (n1_le : d.n1.toNat ≤ 128) (h : calcImage p f d x = .ok b) :
    unpack b = ⟨d.hs.toNat, d.n1.toNat, divround p (mul16x32 d.n f) x⟩ := by
  obtain ⟨-, -, hfits, rfl⟩ := calcImage_eq_ok_iff.mp h
  exact unpack_pack ⟨hs_ge, hs_le, n1_ge, n1_le, hfits⟩

/-- A legal divider is in range. -/
theorem unpack_of_legal {p : Params} {f x : BitVec 32} {d : Divider} {b : Bytes6} (hd : d.Legal)
    (h : calcImage p f d x = .ok b) :
    unpack b = ⟨d.hs.toNat, d.n1.toNat, divround p (mul16x32 d.n f) x⟩ := by
  obtain ⟨hhs, -, n1_ge, n1_le, -⟩ := hd
  exact unpack_of_calcImage (by omega) (by omega) n1_ge n1_le h

/-- The rounded quotient of a product, in the numbers the statements use. -/
theorem divround_mul16x32_eq (p : Params) (d : Divider) (f : BitVec 32) {x : BitVec 32} (hx : x ≠ 0) :
    divround p (mul16x32 d.n f) x =
      (2 * (d.n.toNat * f.toNat * 2 ^ (p.rfreqFrac + 3)) + x.toNat) / (2 * x.toNat) := by
  rw [divround_eq p _ hx, mul16x32_toNat]

/-! ### CALC (spec/42_tuning_word.md R166) -/

theorem exec_calcCmd (s : State) : exec .calcCmd s = .next (calcState s) :=
  rfl

theorem calcState_of_unset {s : State} (h : s.div.hs = 0) : calcState s = { s with err := .cfg } := by
  simp only [calcState, if_pos h, State.startCommand, State.fail]

theorem calcState_of_error {s : State} {e : Err} (h : s.div.hs ≠ 0)
    (he : calcImage s.params s.freq s.div s.xtal = .error e) : calcState s = { s with err := e } := by
  simp only [calcState, if_neg h, he, State.startCommand, State.fail]

theorem calcState_of_image {s : State} {b : Bytes6} (h : s.div.hs ≠ 0)
    (hb : calcImage s.params s.freq s.div s.xtal = .ok b) : calcState s = { s with err := .ok, img := b } := by
  simp only [calcState, if_neg h, hb, State.startCommand]

theorem hs_ne_zero_of_legal {d : Divider} (h : d.Legal) : d.hs ≠ 0 := by
  obtain ⟨hhs, -⟩ := h
  rintro heq
  rw [heq] at hhs
  simp at hhs

/-! ### The decision (spec/43_smooth_tune.md R183) -/

/-- With the center set and a ppm limit the decision is one bound on the difference, whatever its sign. -/
theorem smallChange_iff_absdiff_le {f c : BitVec 32} {ppm : BitVec 16} (hppm : ppm ≠ 0) :
    smallChange f c true ppm = true ↔ absdiff f c * 15 ≤ 32 * (c.toNat / 2 ^ 21 * ppm.toNat) + 31 := by
  rw [smallChange_iff]
  simp only [hppm, ne_eq, not_false_eq_true, true_and]
  omega

theorem absdiff_add {c : BitVec 32} {d : Nat} (h : c.toNat + d < 2 ^ 32) :
    absdiff (BitVec.ofNat 32 (c.toNat + d)) c = d := by
  rw [absdiff_eq_natAbs, BitVec.toNat_ofNat, Nat.mod_eq_of_lt h]
  omega

theorem absdiff_sub {c : BitVec 32} {d : Nat} (h : d ≤ c.toNat) : absdiff (BitVec.ofNat 32 (c.toNat - d)) c = d := by
  rw [absdiff_eq_natAbs, BitVec.toNat_ofNat, Nat.mod_eq_of_lt (by omega)]
  omega

/-- The decision looks at the difference only. -/
theorem smallChange_congr {f g c : BitVec 32} (v : Bool) (ppm : BitVec 16) (h : absdiff f c = absdiff g c) :
    smallChange f c v ppm = smallChange g c v ppm := by
  simp only [smallChange, h]

end Sys2Proof.Machine

namespace Sys2Proof.Proofs

open Sys2Proof.Machine

/-- Settles O25: decoding undoes encoding field by field, and it is injective. -/
theorem packUnpackRoundTrip : Obligations.PackUnpackRoundTrip :=
  ⟨fun _ _ _ hs_ge hs_le n1_ge n1_le hr => unpack_pack ⟨hs_ge, hs_le, n1_ge, n1_le, hr⟩, pack_unpack⟩

/-- Settles O26: the range check is the first test. -/
theorem rangeCheckIsExact : Obligations.RangeCheckIsExact :=
  fun _ _ _ _ => ⟨calcImage_eq_dco_iff, fun _ h => (calcImage_eq_ok_iff.mp h).1⟩

/-- Settles O27: the fractional value is the quotient rounded to nearest. -/
theorem tuningWordIsAccurate : Obligations.TuningWordIsAccurate := by
  intro p f x d b hs_ge hs_le n1_ge n1_le h
  obtain ⟨-, hx, hfits, -⟩ := calcImage_eq_ok_iff.mp h
  obtain ⟨hle, hlt⟩ := divround_bounds p (mul16x32 d.n f) hx
  rw [mul16x32_toNat] at hle hlt
  rw [unpack_of_calcImage hs_ge hs_le n1_ge n1_le h]
  exact ⟨rfl, rfl, hfits, hle, hlt.le⟩

/-- Settles O28: the tests of CALC in their order. -/
theorem calcComputesImageOrReportsError : Obligations.CalcComputesImageOrReportsError := by
  refine ⟨decode_encode .calcCmd, fun s => ⟨calcState s, exec_calcCmd s, ?_, ?_⟩⟩
  · intro n r
    have hr : s.xtal ≠ 0 → divround s.params (mul16x32 s.div.n s.freq) s.xtal = r :=
      divround_mul16x32_eq s.params s.div s.freq
    refine ⟨calcState_of_unset, fun hset hfast => ?_, fun hset hslow hx => ?_, fun hset hslow hx hbig => ?_,
      fun hset hslow hx hfits => ?_⟩
    · exact calcState_of_error hset (calcImage_eq_dco_iff.mpr hfast)
    · exact calcState_of_error hset (calcImage_eq_cfg_iff.mpr ⟨hslow, .inl hx⟩)
    · exact calcState_of_error hset (calcImage_eq_cfg_iff.mpr ⟨hslow, .inr (hr hx ▸ hbig)⟩)
    · exact calcState_of_image hset (calcImage_eq_ok_iff.mpr ⟨hslow, hx, hr hx ▸ hfits, hr hx ▸ rfl⟩)
  · obtain ⟨e, b, hframe⟩ := calcState_frame s
    rw [hframe]
    exact (sameBytesExcept_setImg s b).trans (sameBytesExcept_setErr _ e)

/-- Settles O29: no test of CALC fails. -/
theorem calcCompletes : Obligations.CalcCompletes := by
  intro s hlegal hx hslow hfits
  rw [← divround_mul16x32_eq s.params s.div s.freq hx] at hfits ⊢
  have himage := calcImage_eq_ok_iff.mpr ⟨hslow, hx, hfits, rfl⟩
  exact ⟨_, (exec_calcCmd s).trans (congrArg _ (calcState_of_image (hs_ne_zero_of_legal hlegal) himage)),
    unpack_of_legal hlegal himage⟩

/-- Settles O31: the decision is a bound on the difference. -/
theorem smoothTuneDecisionProperties : Obligations.SmoothTuneDecisionProperties := by
  intro c ppm
  refine ⟨fun f v => smallChange_of_ppm_zero f c v, fun f => smallChange_of_not_valid f c ppm, fun d hhi hlo => ?_,
    fun d e hd he hsmall => ?_, fun hppm => ?_, fun f hppm => smallChange_iff_absdiff_le hppm, fun f hppm hc => ?_⟩
  · exact smallChange_congr true ppm ((absdiff_add hhi).trans (absdiff_sub hlo).symm)
  · have hppm : ppm ≠ 0 := ((smallChange_iff _ _ _ _).mp hsmall).1
    rw [smallChange_iff_absdiff_le hppm, absdiff_add hd] at hsmall
    rw [smallChange_iff_absdiff_le hppm, absdiff_add (by omega)]
    omega
  · rw [smallChange_iff_absdiff_le hppm, absdiff_eq_natAbs]
    simp
  · rw [smallChange_iff_absdiff_le hppm, Nat.div_eq_of_lt hc]
    omega

end Sys2Proof.Proofs

/-! PROOF. Runs of the bus commands whose answers are supplied: no error at all, or one in the block write
(spec/44_write_protocol.md R197 to R203, spec/45_autodetect.md R222, spec/46_pipeline.md R240). -/

namespace Sys2Proof.Machine

/-! ### Supplied answers -/

/-- A supplied answer is the one used. -/
theorem supplied_cons_cons {α : Type} {a b : α} {l u : List α} (h : Supplied (a :: l) (b :: u)) : b = a ∧ Supplied l u :=
  ⟨(h 0 a b rfl rfl).symm, fun k x y hx hy => h (k + 1) x y hx hy⟩

theorem toList_injective {b c : Bytes6} (h : b.toList = c.toList) : b = c := by
  obtain ⟨b0, b1, b2, b3, b4, b5⟩ := b
  obtain ⟨c0, c1, c2, c3, c4, c5⟩ := c
  simpa [Bytes6.toList] using h

/-- Six supplied bytes are the six received. -/
theorem eq_of_supplied_toList {d d' : Bytes6} {rx : List Byte} (h : Supplied (d.toList ++ rx) d'.toList) : d' = d :=
  toList_injective (supplied_eq_of_append h rfl)

/-- Four answers supplied as 0 are used as 0. -/
theorem good_of_supplied_four {l rest : List Bool} {e1 e2 e3 e4 : Bool}
    (hin : l = false :: false :: false :: false :: rest) (h : Supplied l [e1, e2, e3, e4]) : e1 = false ∧ e2 = false ∧ e3 = false ∧ e4 = false := by
  subst hin
  simpa using supplied_eq_of_append (u := [false, false, false, false]) h rfl

/-- Three answers supplied as 0 are used as 0. -/
theorem good_of_supplied_three {l rest : List Bool} {e1 e2 e3 : Bool} (hin : l = false :: false :: false :: rest)
    (h : Supplied l [e1, e2, e3]) : e1 = false ∧ e2 = false ∧ e3 = false := by
  subst hin
  simpa using supplied_eq_of_append (u := [false, false, false]) h rfl

/-! ### Rows of the outcome tables, with the answers supplied -/

/-- The row of R199 for four answers 0. -/
theorem afterLarge_good {s : State} (b : Bytes6) {rest : List Bool}
    (hin : s.errIn = false :: false :: false :: false :: rest) :
    afterLarge b s false false false false =
      { s with seq := .committed, errIn := rest,
               trace := s.trace ++ (wregEvents s.params s.params.regFrz s.params.frzDco false ++
                 wblockEvents s.params (if s.scheme then s.params.idx1 else s.params.idx0) b false ++
                 wregEvents s.params s.params.regFrz 0x00 false ++
                 wregEvents s.params s.params.regNewf s.params.newfreq false) } := by
  simp [afterLarge, hin]

/-- The row of R199 for the answers 0 and 1. -/
theorem afterLarge_block_failed {s : State} (b : Bytes6) (e3 e4 : Bool) {rest : List Bool}
    (hin : s.errIn = false :: true :: rest) :
    afterLarge b s false true e3 e4 =
      { s with err := .bus, seq := .frozen, errIn := rest,
               trace := s.trace ++ (wregEvents s.params s.params.regFrz s.params.frzDco false ++
                 wblockEvents s.params (if s.scheme then s.params.idx1 else s.params.idx0) b true) } := by
  simp [afterLarge, hin]

/-- The row of R203 for FREEZE_M = 1 and three answers 0. -/
theorem afterSmall_freeze_good {s : State} (b : Bytes6) {rest : List Bool} (hf : s.freezeM = true)
    (hin : s.errIn = false :: false :: false :: rest) :
    afterSmall b s false false false =
      { s with seq := .committed, errIn := rest,
               trace := s.trace ++ (wregEvents s.params s.params.regFrzm s.params.frzM false ++
                 wblockEvents s.params (if s.scheme then s.params.idx1 else s.params.idx0) b false ++
                 wregEvents s.params s.params.regFrzm 0x00 false) } := by
  simp [afterSmall, hf, hin]

/-- The row of R203 for FREEZE_M = 0 and the answer 0; no other answer is used. -/
theorem afterSmall_plain_good {s : State} (b : Bytes6) (e2 e3 : Bool) {rest : List Bool} (hf : s.freezeM = false)
    (hin : s.errIn = false :: rest) :
    afterSmall b s false e2 e3 =
      { s with seq := .committed, errIn := rest,
               trace := s.trace ++ wblockEvents s.params (if s.scheme then s.params.idx1 else s.params.idx0) b false } := by
  simp [afterSmall, hf, hin]

/-- The last row of R222: three answers 0 and six bytes received. -/
theorem afterDetect_good {s : State} {d : Bytes6} {errs : List Bool} {rx : List Byte}
    (hin : s.errIn = false :: false :: false :: errs) (hrx : s.rxIn = d.toList ++ rx) :
    afterDetect s false false false d =
      { s with rbuf := d, addrmode := (if d = signature s.params then 0 else 3),
               result := decide (d = signature s.params), errIn := errs, rxIn := rx,
               trace := s.trace ++ (wregEvents s.params s.params.regRcl s.params.recallBit false ++ [.settle] ++
                 indexEvents s.params (if s.params.probeNewer then s.params.idx1 else s.params.idx0) false ++
                 readEvents s.params d false) } := by
  simp [afterDetect, hin, hrx, Bytes6.toList]

/-- A small change is only decided with the center set, and then the invariant has the committed dividers legal. -/
theorem cdiv_legal_of_smallChange {s : State} (h : s.Inv)
    (hsmall : smallChange s.freq s.center s.centerValid s.ppm = true) : s.cdiv.Legal := by
  obtain ⟨-, -, -, hcenter⟩ := h
  obtain ⟨-, hvalid, -⟩ := (smallChange_iff _ _ _ _).mp hsmall
  exact (hcenter hvalid).1

/-- A write sequence reaches STATUS and SEQ and fields the host does not see. -/
theorem sameBytesExcept_writeSequence (s : State) (e : Err) (q : Seq) (ein : List Bool) (tr : List BusEvent) :
    SameBytesExcept s { s with err := e, seq := q, errIn := ein, trace := tr } [(0x3C, 1), (0x3E, 1)] :=
  ((sameBytesExcept_setErr s e).trans (sameBytesExcept_setSeq _ q)).trans (sameBytesExcept_setBus _ ein s.rxIn tr)

end Sys2Proof.Machine

namespace Sys2Proof.Proofs

open Sys2Proof.Machine

/-- Settles O33: the row of R199 for four answers 0. -/
theorem wrlargeCommitsWithoutBusErrors : Obligations.WrlargeCommitsWithoutBusErrors := by
  intro s rest hauto hin
  obtain ⟨e1, e2, e3, e4, hsupplied, htable⟩ := wrlargeState_of_resolved hauto
  obtain ⟨rfl, rfl, rfl, rfl⟩ := good_of_supplied_four hin hsupplied
  rw [exec_wrlarge, htable.trans (afterLarge_good s.img hin)]
  exact ⟨_, rfl, rfl, rfl, sameBytesExcept_writeSequence s .ok .committed rest _⟩

/-- Settles O35: the two rows of R203 without an error. -/
theorem wrsmallCommitsWithoutBusErrors : Obligations.WrsmallCommitsWithoutBusErrors := by
  refine ⟨fun s rest hauto hplain hin => ?_, fun s rest hauto hfreeze hin => ?_⟩
  · obtain ⟨e1, e2, e3, hsupplied, htable⟩ := wrsmallState_of_resolved hauto
    obtain ⟨rfl, -⟩ := supplied_cons_cons (hin ▸ hsupplied)
    rw [exec_wrsmall, htable.trans (afterSmall_plain_good s.img e2 e3 hplain hin)]
    exact ⟨_, rfl, rfl, rfl, sameBytesExcept_writeSequence s .ok .committed rest _⟩
  · obtain ⟨e1, e2, e3, hsupplied, htable⟩ := wrsmallState_of_resolved hauto
    obtain ⟨rfl, rfl, rfl⟩ := good_of_supplied_three hin hsupplied
    rw [exec_wrsmall, htable.trans (afterSmall_freeze_good s.img hfreeze hin)]
    exact ⟨_, rfl, rfl, rfl, sameBytesExcept_writeSequence s .ok .committed rest _⟩

/-- Settles O37: the last row of the outcomes of R222. -/
theorem detectResolvesAddressing : Obligations.DetectResolvesAddressing := by
  refine ⟨fun p sig hsig => by simp [signature, hsig], fun s d errs rx hauto hin hrx => ?_⟩
  obtain ⟨e1, e2, e3, d', hsupplied, hbytes, htable⟩ := detectState_of_auto hauto
  obtain ⟨rfl, rfl, rfl⟩ := good_of_supplied_three hin hsupplied
  obtain rfl : d' = d := eq_of_supplied_toList (hrx ▸ hbytes)
  rw [exec_detect, htable.trans (afterDetect_good hin hrx)]
  refine ⟨_, rfl, rfl, rfl, ?_⟩
  exact ((((sameBytesExcept_setAddrmode s _).trans (sameBytesExcept_setErr _ .ok)).trans
    (sameBytesExcept_setFlags _ s.centerValid _ s.path s.qovf)).trans
    ((sameBytesExcept_setRbuf _ d').trans (sameBytesExcept_setBus _ errs rx _))).mono (by decide)

/-- Settles O41: solver and calculator have answered, and all four transactions are good; the divider is a result of the
solver, so the image decodes to it. -/
theorem setfreqLargeChangeCommits : Obligations.SetfreqLargeChangeCommits := by
  intro s d b rest hwf hauto hlarge hsolve hcalc hin
  obtain ⟨e1, e2, e3, e4, hsupplied, hrow⟩ := setfreqState_of_largeImage hauto hlarge hsolve hcalc
  obtain ⟨rfl, rfl, rfl, rfl⟩ := good_of_supplied_four hin hsupplied
  obtain ⟨hbad, -⟩ | ⟨-, htable⟩ := hrow
  · cases hbad
  rw [exec_setfreq, htable.trans (congrArg commitTune (afterLarge_good b hin))]
  refine ⟨_, rfl, rfl, unpack_of_legal (legal_of_solveDivider hwf.1 hsolve) hcalc, rfl, ?_⟩
  exact ((((((sameBytesExcept_setDiv s d).trans (sameBytesExcept_setCdiv _ d)).trans (sameBytesExcept_setImg _ b)).trans
    (sameBytesExcept_setCenter _ s.freq)).trans (sameBytesExcept_setFlags _ true s.result false s.qovf)).trans
    (sameBytesExcept_writeSequence _ .ok .committed rest _)).mono (by decide)

/-- Settles O42: a small change is only decided with the center set, so the invariant makes the committed dividers legal. -/
theorem setfreqSmallChangeCompletes : Obligations.SetfreqSmallChangeCompletes := by
  intro s b rest hinv hauto hsmall hcalc hin
  have hunpack := unpack_of_legal (cdiv_legal_of_smallChange hinv hsmall) hcalc
  obtain ⟨e1, e2, e3, hsupplied, htable⟩ := setfreqState_of_smallImage hauto hsmall hcalc
  have hsame : ∀ tr, SameBytesExcept s
      { s with err := .ok, path := true, img := b, seq := .committed, errIn := rest, trace := tr }
      [(0x30, 6), (0x3C, 3)] :=
    fun tr => (((sameBytesExcept_setImg s b).trans
      (sameBytesExcept_setFlags _ s.centerValid s.result true s.qovf)).trans
      (sameBytesExcept_writeSequence _ .ok .committed rest tr)).mono (by decide)
  cases hfreeze : s.addrmode.getLsbD 1 with
  | true =>
    rw [hfreeze] at hin
    obtain ⟨rfl, rfl, rfl⟩ := good_of_supplied_three hin hsupplied
    rw [exec_setfreq, htable.trans (afterSmall_freeze_good b hfreeze hin)]
    exact ⟨_, rfl, rfl, hunpack, rfl, hsame _⟩
  | false =>
    rw [hfreeze] at hin
    obtain ⟨rfl, -⟩ := supplied_cons_cons (hin ▸ hsupplied)
    rw [exec_setfreq, htable.trans (afterSmall_plain_good b e2 e3 hfreeze hin)]
    exact ⟨_, rfl, rfl, hunpack, rfl, hsame _⟩

/-- Settles O45: the row of R199 for the answers 0 and 1. -/
theorem failedBlockWriteStopsTheSequence : Obligations.FailedBlockWriteStopsTheSequence := by
  intro s d b rest hauto hlarge hsolve hcalc hin
  obtain ⟨e1, e2, e3, e4, hsupplied, hrow⟩ := setfreqState_of_largeImage hauto hlarge hsolve hcalc
  rw [hin] at hsupplied
  obtain ⟨rfl, hrest⟩ := supplied_cons_cons hsupplied
  obtain ⟨rfl, -⟩ := supplied_cons_cons hrest
  obtain ⟨-, htable⟩ | ⟨⟨-, hgood, -, -⟩, -⟩ := hrow
  · rw [exec_setfreq, htable.trans (afterLarge_block_failed b e3 e4 hin)]
    rfl
  · cases hgood

end Sys2Proof.Proofs

/-! PROOF. The bus discipline: what the rows of the outcome tables put on the bus, in numbers, and which error each
command ends in (spec/44_write_protocol.md R194, R205, spec/20_memory.md R77, spec/60_exceptions.md R256, R259). -/

namespace Sys2Proof.Machine

/-! ### Which error a command ends in -/

/-- The error of `write_small`: ERR_BUS, or the code that stood before. -/
theorem afterSmall_err (b : Bytes6) (s : State) (e1 e2 e3 : Bool) :
    (afterSmall b s e1 e2 e3).err = .bus ∨ (afterSmall b s e1 e2 e3).err = s.err := by
  unfold afterSmall
  cases s.freezeM <;> cases e1 <;> cases e2 <;> cases e3 <;> simp

/-- The error of the detection: ERR_BUS, or the code that stood before. -/
theorem afterDetect_err (s : State) (d : Bytes6) (e1 e2 e3 : Bool) :
    (afterDetect s e1 e2 e3 d).err = .bus ∨ (afterDetect s e1 e2 e3 d).err = s.err := by
  unfold afterDetect
  cases e1 <;> cases e2 <;> cases e3 <;> simp

theorem divrState_err (s : State) : (divrState s).err = .ok ∨ (divrState s).err = .cfg := by
  by_cases h : s.dvs = 0
  · rw [divrState_of_zero h]; exact .inr rfl
  · rw [divrState_of_ne_zero h]; exact .inl rfl

theorem solveState_err (s : State) : (solveState s).err = .ok ∨ (solveState s).err = .noDiv := by
  cases h : solveDivider s.params s.freq s.grade with
  | none => rw [solveState_of_none h]; exact .inr rfl
  | some d => rw [solveState_of_some h]; exact .inl rfl

theorem calcState_err (s : State) : (calcState s).err = .ok ∨ (calcState s).err = .dco ∨ (calcState s).err = .cfg := by
  by_cases h : s.div.hs = 0
  · rw [calcState_of_unset h]; exact .inr (.inr rfl)
  · cases hc : calcImage s.params s.freq s.div s.xtal with
    | error e => rw [calcState_of_error h hc]; exact .inr (calcImage_error hc)
    | ok b => rw [calcState_of_image h hc]; exact .inl rfl

theorem wrlargeState_err (s : State) :
    (wrlargeState s).err = .ok ∨ (wrlargeState s).err = .bus ∨ (wrlargeState s).err = .cfg := by
  cases h : s.auto with
  | true => rw [wrlargeState_of_auto h]; exact .inr (.inr rfl)
  | false =>
    obtain ⟨e1, e2, e3, e4, -, htable⟩ := wrlargeState_of_resolved h
    rw [htable, afterLarge_err]
    cases e1 || e2 || e3 || e4 <;> simp

theorem wrsmallState_err (s : State) :
    (wrsmallState s).err = .ok ∨ (wrsmallState s).err = .bus ∨ (wrsmallState s).err = .cfg := by
  cases h : s.auto with
  | true => rw [wrsmallState_of_auto h]; exact .inr (.inr rfl)
  | false =>
    obtain ⟨e1, e2, e3, -, htable⟩ := wrsmallState_of_resolved h
    rw [htable]
    rcases afterSmall_err s.img { s with err := .ok } e1 e2 e3 with herr | herr
    · exact .inr (.inl herr)
    · exact .inl herr

theorem detectState_err (s : State) : (detectState s).err = .ok ∨ (detectState s).err = .bus := by
  cases h : s.auto with
  | false => rw [detectState_of_resolved h]; exact .inl rfl
  | true =>
    obtain ⟨e1, e2, e3, d, -, -, htable⟩ := detectState_of_auto h
    rw [htable]
    exact (afterDetect_err { s with err := .ok } d e1 e2 e3).symm

/-! ### The numbers of one transaction -/

@[simp] theorem startCount_append (l m : List BusEvent) : startCount (l ++ m) = startCount l + startCount m :=
  List.countP_append

@[simp] theorem errCount_append (l m : List BusEvent) : errCount (l ++ m) = errCount l + errCount m :=
  List.countP_append

@[simp] theorem byteCount_append (l m : List BusEvent) : byteCount (l ++ m) = byteCount l + byteCount m :=
  List.countP_append

/-- Nothing follows a flag read as 1 exactly when it stands in the last part. -/
theorem quietAfterError_append {l : List BusEvent} (h : BusEvent.err true ∉ l) (m : List BusEvent) :
    quietAfterError (l ++ m) = quietAfterError m := by
  induction l with
  | nil => rfl
  | cons ev l ih =>
    rw [List.mem_cons, not_or] at h
    obtain ⟨hev, hl⟩ := h
    cases ev with
    | err e =>
      cases e with
      | true => exact absurd rfl hev
      | false => exact ih hl
    | _ => exact ih hl

/-- One transaction that ends with the error flag e: one start, one reading of the flag, which is its last event, and at
most seven bytes (spec/20_memory.md R77). -/
structure Transaction (e : Bool) (evs : List BusEvent) : Prop where
  starts : startCount evs = 1
  flags : errCount evs = 1
  bytes : byteCount evs ≤ 7
  quiet : quietAfterError evs = true
  flag : BusEvent.err true ∈ evs ↔ e = true

theorem transaction_wreg (p : Params) (reg val : Byte) (e : Bool) : Transaction e (wregEvents p reg val e) where
  starts := rfl
  flags := rfl
  bytes := Nat.le_of_ble_eq_true rfl
  quiet := by cases e <;> rfl
  flag := by simp [wregEvents, eq_comm]

theorem transaction_wblock (p : Params) (idx : Byte) (b : Bytes6) (e : Bool) :
    Transaction e (wblockEvents p idx b e) where
  starts := rfl
  flags := rfl
  bytes := Nat.le_of_ble_eq_true rfl
  quiet := by cases e <;> rfl
  flag := by simp [wblockEvents, eq_comm]

theorem transaction_index (p : Params) (idx : Byte) (e : Bool) : Transaction e (indexEvents p idx e) where
  starts := rfl
  flags := rfl
  bytes := Nat.le_of_ble_eq_true rfl
  quiet := by cases e <;> rfl
  flag := by simp [indexEvents, eq_comm]

theorem transaction_read (p : Params) (d : Bytes6) (e : Bool) : Transaction e (readEvents p d e) where
  starts := rfl
  flags := rfl
  bytes := Nat.le_of_ble_eq_true rfl
  quiet := by cases e <;> rfl
  flag := by simp [readEvents, eq_comm]

/-! ### The numbers of a sequence of transactions -/

/-- A sequence of n transactions, all but the last without error, the last with the error flag e. -/
structure Transactions (n : Nat) (e : Bool) (evs : List BusEvent) : Prop where
  starts : startCount evs = n
  flags : errCount evs = n
  bytes : byteCount evs ≤ 7 * n
  quiet : quietAfterError evs = true
  flag : BusEvent.err true ∈ evs ↔ e = true

theorem Transactions.ne_nil {n : Nat} {e : Bool} {evs : List BusEvent} (h : Transactions n e evs) (hn : 1 ≤ n) :
    evs ≠ [] := by
  rintro rfl
  have hstarts : 0 = n := h.starts
  omega

theorem Transactions.nil : Transactions 0 false [] :=
  ⟨rfl, rfl, le_rfl, rfl, by simp⟩

/-- The wait for the chip to settle is no transaction. -/
theorem Transactions.settle {n : Nat} {evs : List BusEvent} (h : Transactions n false evs) :
    Transactions n false (evs ++ [.settle]) where
  starts := by rw [startCount_append, h.starts]; rfl
  flags := by rw [errCount_append, h.flags]; rfl
  bytes := by rw [byteCount_append]; exact h.bytes
  quiet := by rw [quietAfterError_append (by simp [h.flag])]; rfl
  flag := by simp [h.flag]

/-- One more transaction after a sequence without error. -/
theorem Transactions.append {n : Nat} {e : Bool} {evs tx : List BusEvent} (h : Transactions n false evs)
    (htx : Transaction e tx) : Transactions (n + 1) e (evs ++ tx) where
  starts := by rw [startCount_append, h.starts, htx.starts]
  flags := by rw [errCount_append, h.flags, htx.flags]
  bytes := by
    have := h.bytes
    have := htx.bytes
    rw [byteCount_append]
    omega
  quiet := by rw [quietAfterError_append (by simp [h.flag]), htx.quiet]
  flag := by simp [h.flag, htx.flag]

theorem Transaction.single {e : Bool} {tx : List BusEvent} (htx : Transaction e tx) : Transactions 1 e tx :=
  Transactions.nil.append htx

/-! ### What a command puts on the bus -/

/-- A command from s to t has put n transactions on the bus, of which only the last may have failed, and has ended in
ERR_BUS exactly in that case. -/
def BusRun (s t : State) (n : Nat) : Prop :=
  ∃ (evs : List BusEvent) (e : Bool), t.trace = s.trace ++ evs ∧ Transactions n e evs ∧ (t.err = .bus ↔ e = true)

theorem busRun_silent {s t : State} (htrace : t.trace = s.trace) (herr : t.err ≠ .bus) : BusRun s t 0 :=
  ⟨[], false, by simp [htrace], .nil, by simp [herr]⟩

/-- `write_large` starts one to four transactions, and on a failure SEQ names the last good step (R199). -/
theorem afterLarge_busRun (b : Bytes6) {s : State} (herr : s.err = .ok) (e1 e2 e3 e4 : Bool) :
    ∃ n, BusRun s (afterLarge b s e1 e2 e3 e4) n ∧ 1 ≤ n ∧ n ≤ 4 ∧
      ((afterLarge b s e1 e2 e3 e4).err = .bus → (afterLarge b s e1 e2 e3 e4).seq.code.toNat + 1 = n) := by
  have h1 := fun e => (transaction_wreg s.params s.params.regFrz s.params.frzDco e).single
  have h2 := fun e => (h1 false).append
    (transaction_wblock s.params (if s.scheme then s.params.idx1 else s.params.idx0) b e)
  have h3 := fun e => (h2 false).append (transaction_wreg s.params s.params.regFrz 0x00 e)
  have h4 := fun e => (h3 false).append (transaction_wreg s.params s.params.regNewf s.params.newfreq e)
  unfold afterLarge
  cases e1 with
  | true => exact ⟨1, ⟨_, true, rfl, h1 true, by simp⟩, le_rfl, by decide, fun _ => rfl⟩
  | false =>
  cases e2 with
  | true => exact ⟨2, ⟨_, true, rfl, h2 true, by simp⟩, by decide, by decide, fun _ => rfl⟩
  | false =>
  cases e3 with
  | true => exact ⟨3, ⟨_, true, rfl, h3 true, by simp⟩, by decide, by decide, fun _ => rfl⟩
  | false =>
  cases e4 with
  | true => exact ⟨4, ⟨_, true, rfl, h4 true, by simp⟩, by decide, by decide, fun _ => rfl⟩
  | false => exact ⟨4, ⟨_, false, rfl, h4 false, by simp [herr]⟩, by decide, by decide, fun h => by simp [herr] at h⟩

/-- `write_small` starts one to three transactions, and on a failure SEQ names the last good step (R203). -/
theorem afterSmall_busRun (b : Bytes6) {s : State} (herr : s.err = .ok) (e1 e2 e3 : Bool) :
    ∃ n, BusRun s (afterSmall b s e1 e2 e3) n ∧ 1 ≤ n ∧ n ≤ 4 ∧
      ((afterSmall b s e1 e2 e3).err = .bus → (afterSmall b s e1 e2 e3).seq.code.toNat + 1 = n) := by
  have hblock := transaction_wblock s.params (if s.scheme then s.params.idx1 else s.params.idx0) b
  unfold afterSmall
  cases s.freezeM with
  | true =>
    have h1 := fun e => (transaction_wreg s.params s.params.regFrzm s.params.frzM e).single
    have h2 := fun e => (h1 false).append (hblock e)
    have h3 := fun e => (h2 false).append (transaction_wreg s.params s.params.regFrzm 0x00 e)
    cases e1 with
    | true => exact ⟨1, ⟨_, true, rfl, h1 true, by simp⟩, le_rfl, by decide, fun _ => rfl⟩
    | false =>
    cases e2 with
    | true => exact ⟨2, ⟨_, true, rfl, h2 true, by simp⟩, by decide, by decide, fun _ => rfl⟩
    | false =>
    cases e3 with
    | true => exact ⟨3, ⟨_, true, rfl, h3 true, by simp⟩, by decide, by decide, fun _ => rfl⟩
    | false => exact ⟨3, ⟨_, false, rfl, h3 false, by simp [herr]⟩, by decide, by decide, fun h => by simp [herr] at h⟩
  | false =>
    cases e1 with
    | true => exact ⟨1, ⟨_, true, rfl, (hblock true).single, by simp⟩, le_rfl, by decide, fun _ => rfl⟩
    | false =>
      exact ⟨1, ⟨_, false, rfl, (hblock false).single, by simp [herr]⟩, le_rfl, by decide, fun h => by simp [herr] at h⟩

/-- The detection starts one to three transactions (R222). -/
theorem afterDetect_busRun {s : State} (herr : s.err = .ok) (d : Bytes6) (e1 e2 e3 : Bool) :
    ∃ n, BusRun s (afterDetect s e1 e2 e3 d) n ∧ n ≤ 4 := by
  have h1 := fun e => (transaction_wreg s.params s.params.regRcl s.params.recallBit e).single
  have h2 := fun e => (h1 false).settle.append
    (transaction_index s.params (if s.params.probeNewer then s.params.idx1 else s.params.idx0) e)
  have h3 := fun e => (h2 false).append (transaction_read s.params d e)
  unfold afterDetect
  cases e1 with
  | true => exact ⟨1, ⟨_, true, rfl, h1 true, by simp⟩, by decide⟩
  | false =>
  cases e2 with
  | true => exact ⟨2, ⟨_, true, rfl, h2 true, by simp⟩, by decide⟩
  | false =>
  cases e3 with
  | true => exact ⟨3, ⟨_, true, rfl, h3 true, by simp⟩, by decide⟩
  | false => exact ⟨3, ⟨_, false, rfl, h3 false, by simp [herr]⟩, by decide⟩

theorem BusRun.trace_ne {s t : State} {n : Nat} (h : BusRun s t n) (hn : 1 ≤ n) : s.trace ≠ t.trace := by
  obtain ⟨evs, e, htrace, htx, -⟩ := h
  rw [htrace]
  exact fun heq => htx.ne_nil hn (List.self_eq_append_right.mp heq)

/-! ### The commands -/

/-- What the commands that use the bus do there, and what SEQ says after a failure; n is the number of transactions. -/
def BusOutcome (i : Instr) (s t : State) : Prop :=
  ∃ n, BusRun s t n ∧ n ≤ 4 ∧ (i ≠ .detect → t.err = .bus → t.seq.code.toNat + 1 = n)

theorem busOutcome_silent {i : Instr} {s t : State} (htrace : t.trace = s.trace) (herr : t.err ≠ .bus) :
    BusOutcome i s t :=
  ⟨0, busRun_silent htrace herr, by decide, fun _ hbus => absurd hbus herr⟩

theorem wrlargeState_busOutcome (s : State) : BusOutcome .wrlarge s (wrlargeState s) := by
  cases h : s.auto with
  | true => rw [wrlargeState_of_auto h]; exact busOutcome_silent rfl (by simp)
  | false =>
    obtain ⟨e1, e2, e3, e4, -, htable⟩ := wrlargeState_of_resolved h
    obtain ⟨n, hrun, -, hn, hseq⟩ := afterLarge_busRun s.img (s := { s with err := .ok }) rfl e1 e2 e3 e4
    exact htable ▸ ⟨n, hrun, hn, fun _ => hseq⟩

theorem wrsmallState_busOutcome (s : State) : BusOutcome .wrsmall s (wrsmallState s) := by
  cases h : s.auto with
  | true => rw [wrsmallState_of_auto h]; exact busOutcome_silent rfl (by simp)
  | false =>
    obtain ⟨e1, e2, e3, -, htable⟩ := wrsmallState_of_resolved h
    obtain ⟨n, hrun, -, hn, hseq⟩ := afterSmall_busRun s.img (s := { s with err := .ok }) rfl e1 e2 e3
    exact htable ▸ ⟨n, hrun, hn, fun _ => hseq⟩

theorem detectState_busOutcome (s : State) : BusOutcome .detect s (detectState s) := by
  cases h : s.auto with
  | false => rw [detectState_of_resolved h]; exact busOutcome_silent rfl (by simp)
  | true =>
    obtain ⟨e1, e2, e3, d, -, -, htable⟩ := detectState_of_auto h
    obtain ⟨n, hrun, hn⟩ := afterDetect_busRun (s := { s with err := .ok }) rfl d e1 e2 e3
    exact htable ▸ ⟨n, hrun, hn, fun hne => absurd rfl hne⟩

theorem calcImage_error_ne_bus {p : Params} {f x : BitVec 32} {d : Divider} {e : Err}
    (h : calcImage p f d x = .error e) : e ≠ .bus := by
  rcases calcImage_error h with rfl | rfl <;> decide

theorem SetfreqOutcome.busOutcome {s t : State} (h : SetfreqOutcome s t) : BusOutcome .setfreq s t := by
  cases h with
  | refused | noDivider => exact busOutcome_silent rfl (by simp)
  | smallError e _ _ hcalc => exact busOutcome_silent rfl (calcImage_error_ne_bus hcalc)
  | largeError d e _ _ _ hcalc => exact busOutcome_silent rfl (calcImage_error_ne_bus hcalc)
  | smallWritten b e1 e2 e3 =>
    obtain ⟨n, hrun, -, hn, hseq⟩ :=
      afterSmall_busRun b (s := { s with err := .ok, path := true, img := b }) rfl e1 e2 e3
    exact ⟨n, hrun, hn, fun _ => hseq⟩
  | largeFailed d b e1 e2 e3 e4 =>
    obtain ⟨n, hrun, -, hn, hseq⟩ :=
      afterLarge_busRun b (s := { s with err := .ok, path := false, div := d, img := b }) rfl e1 e2 e3 e4
    exact ⟨n, hrun, hn, fun _ => hseq⟩
  | committed d b =>
    obtain ⟨n, hrun, -, hn, hseq⟩ :=
      afterLarge_busRun b (s := { s with err := .ok, path := false, div := d, img := b }) rfl false false false false
    exact ⟨n, hrun, hn, fun _ => hseq⟩

/-- A SETFREQ either ends before its write sequence, in an error other than ERR_BUS, or it runs the sequence, which ends
OK or in ERR_BUS (spec/46_pipeline.md R240 (1)). -/
theorem SetfreqOutcome.silent_or_written {s t : State} (h : SetfreqOutcome s t) :
    ((t.err = .noDiv ∨ t.err = .dco ∨ t.err = .cfg) ∧ t.trace = s.trace ∧ t.img = s.img ∧ t.seq = s.seq) ∨
      ((t.err = .ok ∨ t.err = .bus) ∧ s.trace ≠ t.trace ∧ s.auto = false) := by
  cases h with
  | refused => exact .inl ⟨by simp, rfl, rfl, rfl⟩
  | noDivider => exact .inl ⟨by simp, rfl, rfl, rfl⟩
  | smallError e _ _ hcalc => exact .inl ⟨.inr (calcImage_error hcalc), rfl, rfl, rfl⟩
  | largeError d e _ _ _ hcalc => exact .inl ⟨.inr (calcImage_error hcalc), rfl, rfl, rfl⟩
  | smallWritten b e1 e2 e3 hauto =>
    obtain ⟨n, hrun, hn, -⟩ :=
      afterSmall_busRun b (s := { s with err := .ok, path := true, img := b }) rfl e1 e2 e3
    exact .inr ⟨(afterSmall_err b { s with err := .ok, path := true, img := b } e1 e2 e3).symm, hrun.trace_ne hn, hauto⟩
  | largeFailed d b e1 e2 e3 e4 hauto hlarge hsolve hcalc hsupplied hbad =>
    obtain ⟨n, hrun, hn, -⟩ :=
      afterLarge_busRun b (s := { s with err := .ok, path := false, div := d, img := b }) rfl e1 e2 e3 e4
    exact .inr ⟨.inr (by rw [afterLarge_err, if_pos hbad]), hrun.trace_ne hn, hauto⟩
  | committed d b hauto =>
    obtain ⟨n, hrun, hn, -⟩ :=
      afterLarge_busRun b (s := { s with err := .ok, path := false, div := d, img := b }) rfl false false false false
    exact .inr ⟨.inl rfl, hrun.trace_ne hn, hauto⟩

end Sys2Proof.Machine

namespace Sys2Proof.Proofs

open Sys2Proof.Machine

/-- Settles O56: the errors of the outcomes of each command. -/
theorem errorsEachCommandCanReport : Obligations.ErrorsEachCommandCanReport := by
  intro i s t h
  obtain rfl := exec_eq_next_iff.mp h
  cases i with
  | nop | mul | decideCmd | online => simp [commandState]
  | divr => simpa [commandState] using divrState_err s
  | solve => simpa [commandState] using solveState_err s
  | calcCmd => simpa [commandState] using calcState_err s
  | wrlarge => simpa [commandState] using wrlargeState_err s
  | wrsmall => simpa [commandState] using wrsmallState_err s
  | detect => simpa [commandState] using detectState_err s
  | setfreq =>
    rcases (setfreqState_outcome s).silent_or_written with ⟨herr | herr | herr, -⟩ | ⟨herr | herr, -⟩ <;>
      simp [commandState, herr]

end Sys2Proof.Proofs

namespace Sys2Proof.Machine

/-- Only four commands use the bus; the others leave the trace alone and cannot end in ERR_BUS. -/
theorem commandState_busOutcome (i : Instr) (s : State) : BusOutcome i s (commandState i s) := by
  have hkept := commandState_keptByOthers i s
  have herr := Proofs.errorsEachCommandCanReport i s _ (exec_eq_next i s)
  cases i with
  | wrlarge => exact wrlargeState_busOutcome s
  | wrsmall => exact wrsmallState_busOutcome s
  | detect => exact detectState_busOutcome s
  | setfreq => exact (setfreqState_outcome s).busOutcome
  | _ =>
    obtain ⟨htrace, -⟩ := hkept.bus (by decide) (by decide) (by decide) (by decide)
    refine busOutcome_silent htrace fun hbus => ?_
    rw [hbus] at herr
    simp at herr

/-- Who can end in ERR_BUS (spec/60_exceptions.md R256). -/
theorem mem_of_err_eq_bus {i : Instr} {s : State} (h : (commandState i s).err = .bus) :
    i ∈ ([.wrlarge, .wrsmall, .setfreq, .detect] : List Instr) := by
  have herr := Proofs.errorsEachCommandCanReport i s _ (exec_eq_next i s)
  rw [h] at herr
  cases i with
  | wrlarge | wrsmall | setfreq | detect => decide
  | _ => simp at herr

/-- A command that ends in an error keeps the smooth-tune state (spec/46_pipeline.md R240 (2)). -/
theorem commandState_tuneKept {i : Instr} {s : State} (hi : i ≠ .online) (h : (commandState i s).err ≠ .ok) :
    s.TuneKept (commandState i s) := by
  by_cases hset : i = .setfreq
  · subst hset
    rcases (setfreqState_outcome s).tune with hkept | ⟨d, hcommit⟩
    · exact hkept
    · exact absurd hcommit.err h
  · obtain ⟨hcenter, hcdiv, hvalid⟩ := commandState_tune s hset
    exact ⟨hcenter, hcdiv, hvalid hi⟩

end Sys2Proof.Machine

namespace Sys2Proof.Proofs

open Sys2Proof.Machine

/-- Settles O53: every command puts a sequence of at most four transactions on the bus. -/
theorem busDisciplineOfEveryCommand : Obligations.BusDisciplineOfEveryCommand := by
  intro i s
  obtain ⟨n, ⟨evs, e, htrace, htx, hbus⟩, hn, -⟩ := commandState_busOutcome i s
  exact ⟨commandState i s, evs, exec_eq_next i s, htrace, htx.quiet, htx.flags.trans htx.starts.symm, htx.starts ▸ hn,
    htx.starts ▸ htx.bytes, hbus.trans htx.flag.symm⟩

/-- Settles O54: the code of SEQ counts the transactions before the last one of the sequence. -/
theorem busErrorNamesLastGoodStep : Obligations.BusErrorNamesLastGoodStep := by
  intro i s t h hbus
  obtain rfl := exec_eq_next_iff.mp h
  have hmem := mem_of_err_eq_bus hbus
  have honline : i ≠ .online := by rintro rfl; simp at hmem
  obtain ⟨hcenter, hcdiv, hvalid⟩ := commandState_tuneKept (s := s) honline (by rw [hbus]; decide)
  obtain ⟨n, ⟨evs, e, htrace, htx, -⟩, -, hseq⟩ := commandState_busOutcome i s
  refine ⟨hmem, hcenter, hvalid, hcdiv, evs, htrace, htx.quiet, ?_, fun hi => htx.starts ▸ hseq hi hbus⟩
  rintro rfl
  obtain ⟨e, d, m, r, a, x, tr, hframe⟩ := detectState_frame s
  exact (congrArg State.seq hframe :)

/-- Settles O43: a SETFREQ that fails before its write sequence has issued nothing, and one that fails at all has not
committed. -/
theorem failedSetfreqKeepsTuneState : Obligations.FailedSetfreqKeepsTuneState := by
  intro s
  refine ⟨setfreqState s, exec_setfreq s, fun herr => ?_, fun herr => ?_, fun herr => ?_⟩
  · rcases (setfreqState_outcome s).silent_or_written with ⟨-, hsilent⟩ | ⟨hok | hbus, -⟩
    · exact hsilent
    · simp [hok] at herr
    · simp [hbus] at herr
  · obtain ⟨hcenter, hcdiv, hvalid⟩ := commandState_tuneKept (i := .setfreq) (by decide) herr
    exact ⟨hcenter, hvalid, hcdiv⟩
  · rcases (setfreqState_outcome s).silent_or_written with ⟨hno | hno | hno, -⟩ | ⟨-, hwritten⟩
    · simp [hno] at herr
    · simp [hno] at herr
    · simp [hno] at herr
    · exact hwritten

end Sys2Proof.Proofs

/-! PROOF. SETFREQ at its limits: no strobe on the small path, frequency 0, the DCO limit (spec/46_pipeline.md R234, R240,
spec/60_exceptions.md R255). -/

namespace Sys2Proof.Machine

theorem setfreqOutcome_of_exec {s t : State} (h : exec .setfreq s = .next t) : SetfreqOutcome s t := by
  obtain rfl := exec_eq_next_iff.mp h
  exact setfreqState_outcome s

/-! ### Register writes in a trace -/

/-- The events of a register write up to its stop condition (spec/44_write_protocol.md R191). -/
def regWrite (sla : BitVec 7) (reg val : Byte) : List BusEvent :=
  [.start sla .write, .send reg, .send val, .stop]

/-- A register write is found in a register write only if it is that one. -/
theorem regWrite_infix_wregEvents_append {p : Params} {reg val r v : Byte} {e : Bool} {rest : List BusEvent} :
    regWrite p.sla r v <:+: wregEvents p reg val e ++ rest ↔ (reg, val) = (r, v) ∨ regWrite p.sla r v <:+: rest := by
  simp [regWrite, wregEvents, List.infix_cons_iff, eq_comm]

/-- A block write sends more than two bytes, so it is no register write. -/
theorem regWrite_infix_wblockEvents_append {p : Params} {idx r v : Byte} {b : Bytes6} {e : Bool} {rest : List BusEvent} :
    regWrite p.sla r v <:+: wblockEvents p idx b e ++ rest ↔ regWrite p.sla r v <:+: rest := by
  simp [regWrite, wblockEvents, List.infix_cons_iff]

theorem not_regWrite_infix_nil {sla : BitVec 7} {r v : Byte} : ¬regWrite sla r v <:+: [] := by
  simp [regWrite]

theorem regWrite_infix_wregEvents {p : Params} {reg val r v : Byte} {e : Bool} :
    regWrite p.sla r v <:+: wregEvents p reg val e ↔ (reg, val) = (r, v) := by
  simpa only [List.append_nil, not_regWrite_infix_nil, or_false] using
    regWrite_infix_wregEvents_append (p := p) (reg := reg) (val := val) (r := r) (v := v) (e := e) (rest := [])

theorem not_regWrite_infix_wblockEvents {p : Params} {idx r v : Byte} {b : Bytes6} {e : Bool} :
    ¬regWrite p.sla r v <:+: wblockEvents p idx b e := by
  simpa only [List.append_nil, not_regWrite_infix_nil, iff_false] using
    regWrite_infix_wblockEvents_append (p := p) (idx := idx) (r := r) (v := v) (b := b) (e := e) (rest := [])

/-- The only register writes of `write_small` are the M freeze and its unfreeze (R201). -/
theorem afterSmall_regWrites (b : Bytes6) (s : State) (e1 e2 e3 : Bool) :
    ∃ evs, (afterSmall b s e1 e2 e3).trace = s.trace ++ evs ∧ ∀ r v, regWrite s.params.sla r v <:+: evs →
      (s.params.regFrzm, s.params.frzM) = (r, v) ∨ (s.params.regFrzm, 0) = (r, v) := by
  unfold afterSmall
  cases s.freezeM with
  | false =>
    cases e1 <;> exact ⟨_, rfl, fun r v h => absurd h not_regWrite_infix_wblockEvents⟩
  | true =>
    cases e1 with
    | true => exact ⟨_, rfl, fun r v h => .inl (regWrite_infix_wregEvents.mp h)⟩
    | false =>
    cases e2 with
    | true =>
      refine ⟨_, rfl, fun r v h => ?_⟩
      rw [regWrite_infix_wregEvents_append] at h
      exact h.imp_right fun h => absurd h not_regWrite_infix_wblockEvents
    | false =>
      cases e3 <;> refine ⟨_, rfl, fun r v h => ?_⟩ <;>
        rwa [List.append_assoc, regWrite_infix_wregEvents_append, regWrite_infix_wblockEvents_append,
          regWrite_infix_wregEvents] at h

/-! ### Frequency 0 (spec/46_pipeline.md R234) -/

/-- A legal total division is at most 11 × 128. -/
theorem n_le_of_legal {d : Divider} (h : d.Legal) : d.n.toNat ≤ 1408 := by
  obtain ⟨hhs, -, -, hn1, hn⟩ := h
  exact hn ▸ Nat.mul_le_mul (show d.hs.toNat ≤ 11 by omega) hn1

/-- A valid center is far from 0: its dividers reach the DCO minimum there. -/
theorem center_ge_of_inv {s : State} (h : s.Inv) (hvalid : s.centerValid = true) : 1489 ≤ s.center.toNat := by
  obtain ⟨⟨hmin, -⟩, -, -, hcenter⟩ := h
  obtain ⟨hlegal, hreach⟩ := hcenter hvalid
  have hle : dcoMinQ21 s.params ≤ 1408 * s.center.toNat :=
    hreach.trans (Nat.mul_le_mul_right _ (n_le_of_legal hlegal))
  rw [dcoMinQ21] at hle
  omega

/-- The change to frequency 0 is never small: below 1 MHz the bound is 0, and above it 16 bits of PPM do not reach the
center. -/
theorem smallChange_zero_of_inv {s : State} (h : s.Inv) : smallChange 0 s.center s.centerValid s.ppm = false := by
  rw [← Bool.not_eq_true, smallChange_iff, absdiff_eq_natAbs]
  rintro ⟨-, hvalid, hnear⟩
  have hcenter := center_ge_of_inv h hvalid
  have hbound : s.center.toNat / 2 ^ 21 * s.ppm.toNat ≤ s.center.toNat / 2 ^ 21 * 65535 :=
    Nat.mul_le_mul_left _ (Nat.le_of_lt_succ s.ppm.isLt)
  have hdelta : (((0 : BitVec 32).toNat : Int) - s.center.toNat).natAbs = s.center.toNat := by simp
  rw [hdelta] at hnear
  omega

/-! ### The DCO limit (spec/60_exceptions.md R255) -/

/-- The range check as R255 states it, in whole units of 8 MHz. -/
theorem calcImage_eq_dco_iff_lt_div {p : Params} {f x : BitVec 32} {d : Divider} :
    calcImage p f d x = .error .dco ↔ p.dcoMax8.toNat < d.n.toNat * f.toNat / 2 ^ 24 := by
  rw [calcImage_eq_dco_iff, Nat.lt_iff_add_one_le, Nat.le_div_iff_mul_le (by decide)]

/-- CALC reports ERR_DCO exactly when DIV is set and the range check fails. -/
theorem calcState_err_eq_dco_iff {s : State} :
    (calcState s).err = .dco ↔ s.div.hs ≠ 0 ∧ calcImage s.params s.freq s.div s.xtal = .error .dco := by
  by_cases h : s.div.hs = 0
  · simp [calcState_of_unset h, h]
  · cases hc : calcImage s.params s.freq s.div s.xtal with
    | error e => simp only [calcState_of_error h hc, Except.error.injEq, ne_eq, h, not_false_eq_true, true_and]
    | ok b => simp [calcState_of_image h hc]

/-- SETFREQ on the small path reports ERR_DCO exactly when the committed dividers fail the range check. -/
theorem SetfreqOutcome.err_eq_dco_of_small {s t : State} (h : SetfreqOutcome s t) (hauto : s.auto = false)
    (hsmall : smallChange s.freq s.center s.centerValid s.ppm = true) :
    (t.err = .dco ↔ calcImage s.params s.freq s.cdiv s.xtal = .error .dco) ∧
      (t.err = .dco → t = { s with err := .dco, path := true }) := by
  cases h with
  | refused hrefused => simp [hauto] at hrefused
  | noDivider _ hlarge => simp [hsmall] at hlarge
  | largeError d e _ hlarge => simp [hsmall] at hlarge
  | largeFailed d b e1 e2 e3 e4 _ hlarge => simp [hsmall] at hlarge
  | committed d b _ hlarge => simp [hsmall] at hlarge
  | smallError e _ _ hcalc => exact ⟨by simp [hcalc], fun herr => by rw [← (herr : e = .dco)]⟩
  | smallWritten b e1 e2 e3 _ _ hcalc =>
    have herr : (afterSmall b { s with err := .ok, path := true, img := b } e1 e2 e3).err ≠ .dco := by
      rcases afterSmall_err b { s with err := .ok, path := true, img := b } e1 e2 e3 with h | h <;> simp [h]
    exact ⟨by simp [hcalc, herr], fun hdco => absurd hdco herr⟩

/-- SETFREQ on the large path reports ERR_DCO exactly when the new dividers fail the range check. -/
theorem SetfreqOutcome.err_eq_dco_of_large {s t : State} (h : SetfreqOutcome s t) (hauto : s.auto = false)
    (hlarge : smallChange s.freq s.center s.centerValid s.ppm = false) :
    (t.err = .dco ↔ ∃ d, solveDivider s.params s.freq s.grade = some d ∧
        calcImage s.params s.freq d s.xtal = .error .dco) ∧
      (t.err = .dco → t = { s with err := .dco, path := false, div := t.div } ∧
        solveDivider s.params s.freq s.grade = some t.div) := by
  cases h with
  | refused hrefused => simp [hauto] at hrefused
  | smallError e _ hsmall => simp [hlarge] at hsmall
  | smallWritten b e1 e2 e3 _ hsmall => simp [hlarge] at hsmall
  | noDivider _ _ hsolve => simp [hsolve]
  | largeError d e _ _ hsolve hcalc =>
    exact ⟨by simp [hsolve, hcalc], fun herr => ⟨by rw [← (herr : e = .dco)], hsolve⟩⟩
  | largeFailed d b e1 e2 e3 e4 _ _ hsolve hcalc _ hbad => simp [hsolve, hcalc, afterLarge_err, hbad]
  | committed d b _ _ hsolve hcalc => simp [hsolve, hcalc, afterLarge_err]

/-- A written image decodes to a legal divider whose product with FREQ is below the DCO limit. -/
theorem unpack_product_lt {p : Params} {f x : BitVec 32} {d : Divider} {b : Bytes6} (hd : d.Legal)
    (h : calcImage p f d x = .ok b) :
    (unpack b).hs * (unpack b).n1 * f.toNat < (p.dcoMax8.toNat + 1) * 2 ^ 24 := by
  obtain ⟨hslow, -⟩ := calcImage_eq_ok_iff.mp h
  rw [unpack_of_legal hd h]
  obtain ⟨-, -, -, -, hn⟩ := hd
  exact hn ▸ hslow

end Sys2Proof.Machine

namespace Sys2Proof.Proofs

open Sys2Proof.Machine

/-- Settles O44: PATH 1 means the small path, whose only register writes are the M freeze and its unfreeze. -/
theorem smallPathNeverStrobes : Obligations.SmallPathNeverStrobes := by
  intro s t hauto h hpath hne1 hne2 hne3 hne4
  have hout := setfreqOutcome_of_exec h
  have hsmall : smallChange s.freq s.center s.centerValid s.ppm = true := (hout.path hauto).symm.trans hpath
  cases hout with
  | refused hrefused => simp [hauto] at hrefused
  | noDivider _ hlarge => simp [hsmall] at hlarge
  | largeError d e _ hlarge => simp [hsmall] at hlarge
  | largeFailed d b e1 e2 e3 e4 _ hlarge => simp [hsmall] at hlarge
  | committed d b _ hlarge => simp [hsmall] at hlarge
  | smallError e =>
    exact ⟨rfl, rfl, rfl, [], by simp, by simp, by simp⟩
  | smallWritten b e1 e2 e3 =>
    obtain ⟨evs, htrace, hwrites⟩ := afterSmall_regWrites b { s with err := .ok, path := true, img := b } e1 e2 e3
    obtain ⟨hcenter, hcdiv, -⟩ := afterSmall_tuneKept b { s with err := .ok, path := true, img := b } e1 e2 e3
    refine ⟨by rw [afterSmall_frame], hcdiv, hcenter, evs, htrace, fun pre post heq => ?_, fun pre post heq => ?_⟩
    · exact (hwrites _ _ ⟨pre, post, heq.symm⟩).elim hne1 hne3
    · exact (hwrites _ _ ⟨pre, post, heq.symm⟩).elim hne2 hne4

/-- Settles O46: the decision is a large change, and the solver has nothing for frequency 0. -/
theorem zeroFrequencyIsRejected : Obligations.ZeroFrequencyIsRejected := by
  intro s hinv hauto hfreq
  have hlarge : smallChange s.freq s.center s.centerValid s.ppm = false := hfreq ▸ smallChange_zero_of_inv hinv
  have hsolve : solveDivider s.params s.freq s.grade = none := solveDivider_eq_none_iff.mpr (.inl hfreq)
  rw [exec_setfreq, setfreqState_of_noDivider hauto hlarge hsolve]

/-- Settles O47: ERR_DCO comes from the calculator alone, with the dividers of the path taken. -/
theorem dcoErrorExactlyWhenOutOfRange : Obligations.DcoErrorExactlyWhenOutOfRange := by
  intro s tooFast
  have hfast : ∀ d, calcImage s.params s.freq d s.xtal = .error .dco ↔ tooFast d := fun _ => calcImage_eq_dco_iff_lt_div
  have hcalc := calcState_err_eq_dco_iff (s := s)
  refine ⟨⟨calcState s, exec_calcCmd s, hcalc.trans (and_congr_right fun _ => hfast _), fun herr => ?_⟩,
    fun hauto => ⟨setfreqState s, exec_setfreq s, fun hsmall => ?_, fun hlarge => ?_⟩⟩
  · obtain ⟨hset, hdco⟩ := hcalc.mp herr
    exact calcState_of_error hset hdco
  · simpa only [hfast] using (setfreqState_outcome s).err_eq_dco_of_small hauto hsmall
  · simpa only [hfast] using (setfreqState_outcome s).err_eq_dco_of_large hauto hlarge

/-- Settles O58: the dividers of either path are legal, and an image is only computed below the limit. -/
theorem setfreqRespectsPpmAndRange : Obligations.SetfreqRespectsPpmAndRange := by
  intro s hinv hauto
  obtain ⟨t, ht⟩ : ∃ t, exec .setfreq s = .next t := ⟨_, exec_setfreq s⟩
  have hout := setfreqOutcome_of_exec ht
  refine ⟨t, ht, fun hppm => ?_, fun herr => ?_⟩
  · rw [hout.path hauto, hppm]
    exact smallChange_of_ppm_zero ..
  have hlegal : ∀ d, solveDivider s.params s.freq s.grade = some d → d.Legal := fun d => legal_of_solveDivider hinv.1.1
  cases hout with
  | refused | noDivider => simp at herr
  | smallError e _ _ hcalc => rcases calcImage_error hcalc with rfl | rfl <;> simp at herr
  | largeError d e _ _ _ hcalc => rcases calcImage_error hcalc with rfl | rfl <;> simp at herr
  | smallWritten b e1 e2 e3 _ hsmall hcalc =>
    rw [afterSmall_frame]
    exact unpack_product_lt (cdiv_legal_of_smallChange hinv hsmall) hcalc
  | largeFailed d b e1 e2 e3 e4 _ _ hsolve hcalc =>
    rw [afterLarge_frame]
    exact unpack_product_lt (hlegal d hsolve) hcalc
  | committed d b _ _ hsolve hcalc =>
    rw [afterLarge_frame]
    exact unpack_product_lt (hlegal d hsolve) hcalc

end Sys2Proof.Proofs

/-! PROOF. No command reads SEQ or the result flags: two runs that differ in them only use the same answers of the transport
and end alike (spec/10_state.md R45, R49, spec/60_exceptions.md R250, spec/46_pipeline.md R238; log entry 6). -/

namespace Sys2Proof.Machine

/-! ### The result flags and SEQ replaced -/

/-- The state with other result flags. -/
def State.withFlags (s : State) (r p o : Bool) : State :=
  { s with result := r, path := p, qovf := o }

/-- The state with another SEQ and other result flags. -/
def State.withResults (s : State) (q : Seq) (r p o : Bool) : State :=
  { s with seq := q, result := r, path := p, qovf := o }

theorem withFlags_eq_withResults (s : State) (r p o : Bool) : s.withFlags r p o = s.withResults s.seq r p o :=
  rfl

/-! The transactions neither read nor write these fields. -/

theorem wreg_withResults (reg val : Byte) (s : State) (q : Seq) (r p o : Bool) :
    wreg reg val (s.withResults q r p o) = ((wreg reg val s).1, (wreg reg val s).2.withResults q r p o) :=
  rfl

theorem writeIndex_withResults (idx : Byte) (s : State) (q : Seq) (r p o : Bool) :
    writeIndex idx (s.withResults q r p o) = ((writeIndex idx s).1, (writeIndex idx s).2.withResults q r p o) :=
  rfl

theorem readSix_withResults (s : State) (q : Seq) (r p o : Bool) :
    readSix (s.withResults q r p o) = ((readSix s).1, (readSix s).2.1, (readSix s).2.2.withResults q r p o) :=
  rfl

/-- A step that takes the flags along unread and unchanged. -/
def CarriesFlags (tx : State → Bool × State) : Prop :=
  ∀ (s : State) (r p o : Bool), tx (s.withFlags r p o) = ((tx s).1, (tx s).2.withFlags r p o)

theorem wreg_carriesFlags (reg val : Byte) : CarriesFlags (wreg reg val) :=
  fun _ _ _ _ => rfl

theorem wblock_carriesFlags (idx : Byte) (b : Bytes6) : CarriesFlags (wblock idx b) :=
  fun _ _ _ _ => rfl

theorem seqDone_carriesFlags : CarriesFlags seqDone :=
  fun _ _ _ _ => rfl

theorem seqCommit_carriesFlags : CarriesFlags seqCommit :=
  fun _ _ _ _ => rfl

theorem seqStep_carriesFlags {tx k : State → Bool × State} (q : Seq) (htx : CarriesFlags tx) (hk : CarriesFlags k) :
    CarriesFlags (seqStep tx q k) := by
  intro s r p o
  have htx := htx s r p o
  rcases h : tx s with ⟨e, t⟩
  rw [h] at htx
  cases e with
  | true => rw [seqStep_error htx, seqStep_error h]
  | false => rw [seqStep_ok htx, seqStep_ok h]; exact hk (t.setSeq q) r p o

/-- `write_large` sets SEQ first, so that it does not even carry the old SEQ along. -/
theorem writeLarge_withResults (b : Bytes6) (s : State) (q : Seq) (r p o : Bool) :
    writeLarge b (s.withResults q r p o) = ((writeLarge b s).1, (writeLarge b s).2.withFlags r p o) :=
  seqStep_carriesFlags _ (wreg_carriesFlags _ _) (seqStep_carriesFlags _ (wblock_carriesFlags _ b)
    (seqStep_carriesFlags _ (wreg_carriesFlags _ _) (seqStep_carriesFlags _ (wreg_carriesFlags _ _) seqDone_carriesFlags)))
    (s.setSeq .idle) r p o

theorem writeSmall_withResults (b : Bytes6) (s : State) (q : Seq) (r p o : Bool) :
    writeSmall b (s.withResults q r p o) = ((writeSmall b s).1, (writeSmall b s).2.withFlags r p o) := by
  have hfreezeM : (s.withResults q r p o).freezeM = s.freezeM := rfl
  simp only [writeSmall, hfreezeM]
  split
  · exact seqStep_carriesFlags _ (wreg_carriesFlags _ _) (seqStep_carriesFlags _ (wblock_carriesFlags _ b)
      (seqStep_carriesFlags _ (wreg_carriesFlags _ _) seqCommit_carriesFlags)) (s.setSeq .idle) r p o
  · exact seqStep_carriesFlags _ (wblock_carriesFlags _ b) seqCommit_carriesFlags (s.setSeq .idle) r p o

theorem endSequence_withFlags (x : Bool × State) (r p o : Bool) :
    endSequence (x.1, x.2.withFlags r p o) = (endSequence x).withFlags r p o := by
  obtain ⟨ok, t⟩ := x
  cases ok <;> rfl

/-! ### The paths of SETFREQ -/

/-- The end of the large path: commit after a good write sequence, else ERR_BUS (spec/46_pipeline.md R233). -/
def commitIfGood (x : Bool × State) : State :=
  if x.1 then commitTune x.2 else x.2.fail .bus

theorem commitIfGood_withFlags (x : Bool × State) (r p o : Bool) :
    commitIfGood (x.1, x.2.withFlags r p o) = (commitIfGood x).withFlags r p o := by
  obtain ⟨ok, t⟩ := x
  cases ok <;> rfl

theorem largePath_eq_commitIfGood {s : State} {d : Divider} {b : Bytes6}
    (hd : solveDivider s.params s.freq s.grade = some d) (hb : calcImage s.params s.freq d s.xtal = .ok b) :
    largePath s = commitIfGood (writeLarge b { s with div := d, img := b }) := by
  simp only [largePath, hd, hb]
  rcases writeLarge b { s with div := d, img := b } with ⟨ok, t⟩
  cases ok <;> rfl

theorem smallPath_eq_endSequence {s : State} {b : Bytes6} (hb : calcImage s.params s.freq s.cdiv s.xtal = .ok b) :
    smallPath s = endSequence (writeSmall b { s with img := b }) := by
  simp only [smallPath, hb]

/-- The small path carries the flags along; SEQ it either leaves alone or writes. -/
theorem smallPath_withResults (s : State) (q : Seq) (r p o : Bool) :
    ((smallPath s).seq = s.seq ∧ smallPath (s.withResults q r p o) = (smallPath s).withResults q r p o) ∨
      smallPath (s.withResults q r p o) = (smallPath s).withFlags r p o := by
  cases hcalc : calcImage s.params s.freq s.cdiv s.xtal with
  | error e =>
    rw [smallPath_of_calc_error hcalc, smallPath_of_calc_error (s := s.withResults q r p o) hcalc]
    exact .inl ⟨rfl, rfl⟩
  | ok b =>
    right
    calc smallPath (s.withResults q r p o)
        = endSequence (writeSmall b (State.withResults { s with img := b } q r p o)) :=
          smallPath_eq_endSequence (s := s.withResults q r p o) hcalc
      _ = (smallPath s).withFlags r p o := by
          rw [writeSmall_withResults, endSequence_withFlags, smallPath_eq_endSequence hcalc]

/-- The large path carries the flags along; SEQ it either leaves alone or writes. -/
theorem largePath_withResults (s : State) (q : Seq) (r p o : Bool) :
    ((largePath s).seq = s.seq ∧ largePath (s.withResults q r p o) = (largePath s).withResults q r p o) ∨
      largePath (s.withResults q r p o) = (largePath s).withFlags r p o := by
  cases hsolve : solveDivider s.params s.freq s.grade with
  | none =>
    rw [largePath_of_none hsolve, largePath_of_none (s := s.withResults q r p o) hsolve]
    exact .inl ⟨rfl, rfl⟩
  | some d =>
    cases hcalc : calcImage s.params s.freq d s.xtal with
    | error e =>
      rw [largePath_of_calc_error hsolve hcalc, largePath_of_calc_error (s := s.withResults q r p o) hsolve hcalc]
      exact .inl ⟨rfl, rfl⟩
    | ok b =>
      right
      calc largePath (s.withResults q r p o)
          = commitIfGood (writeLarge b (State.withResults { s with div := d, img := b } q r p o)) :=
            largePath_eq_commitIfGood (s := s.withResults q r p o) hsolve hcalc
        _ = (largePath s).withFlags r p o := by
            rw [writeLarge_withResults, commitIfGood_withFlags, largePath_eq_commitIfGood hsolve hcalc]

/-! ### The detection -/

theorem wreg_result (reg val : Byte) (s : State) : (wreg reg val s).2.result = s.result := by
  obtain ⟨e, -, h⟩ := wreg_spec reg val s
  rw [h]; rfl

theorem writeIndex_result (idx : Byte) (s : State) : (writeIndex idx s).2.result = s.result := by
  obtain ⟨e, -, h⟩ := writeIndex_spec idx s
  rw [h]; rfl

theorem readSix_result (s : State) : (readSix s).2.2.result = s.result := by
  obtain ⟨e, d, -, -, h⟩ := readSix_spec s
  rw [h]; rfl

/-- A block read carries SEQ and the flags along. -/
theorem rblock_withResults (idx : Byte) (s : State) (q : Seq) (r p o : Bool) :
    (rblock idx s).2.result = s.result ∧
      rblock idx (s.withResults q r p o) = ((rblock idx s).1, (rblock idx s).2.withResults q r p o) := by
  have hindex := writeIndex_result idx s
  unfold rblock
  rw [writeIndex_withResults]
  generalize writeIndex idx s = x at hindex ⊢
  obtain ⟨e1, s1⟩ := x
  cases e1 with
  | true => exact ⟨hindex, rfl⟩
  | false =>
    have hread := readSix_result s1
    dsimp only
    rw [readSix_withResults]
    generalize readSix s1 = y at hread ⊢
    obtain ⟨e2, d, s2⟩ := y
    cases e2 <;> exact ⟨hread.trans hindex, rfl⟩

/-- What is read back decides RESULT, whatever it was. -/
theorem resolveDetection_withResults (d : Bytes6) (s : State) (q : Seq) (r p o : Bool) :
    resolveDetection d (s.withResults q r p o) =
      (resolveDetection d s).withResults q (resolveDetection d s).result p o := by
  have hparams : (s.withResults q r p o).params = s.params := rfl
  unfold resolveDetection
  rw [hparams]
  split <;> rfl

/-- The detection carries SEQ and the flags along, but for RESULT, which it writes when it resolves. -/
theorem probeChip_withResults (s : State) (q : Seq) (r p o : Bool) :
    ((probeChip s).result = s.result ∧ probeChip (s.withResults q r p o) = (probeChip s).withResults q r p o) ∨
      probeChip (s.withResults q r p o) = (probeChip s).withResults q (probeChip s).result p o := by
  have hparams : (s.withResults q r p o).params = s.params := rfl
  have hrecall := wreg_result s.params.regRcl s.params.recallBit s
  unfold probeChip
  rw [hparams, wreg_withResults]
  generalize wreg s.params.regRcl s.params.recallBit s = x at hrecall ⊢
  obtain ⟨e1, s1⟩ := x
  cases e1 with
  | true => exact .inl ⟨hrecall, rfl⟩
  | false =>
    have hwait : waitSettle (s1.withResults q r p o) = (waitSettle s1).withResults q r p o := rfl
    obtain ⟨hblock, hrblock⟩ := rblock_withResults (probeIndex s.params) (waitSettle s1) q r p o
    dsimp only
    rw [hwait, hrblock]
    generalize rblock (probeIndex s.params) (waitSettle s1) = y at hblock ⊢
    obtain ⟨d, s2⟩ := y
    cases d with
    | none => exact .inl ⟨hblock.trans hrecall, rfl⟩
    | some d => exact .inr (resolveDetection_withResults d s2 q r p o)

theorem wrlargeState_eq_endSequence {s : State} (h : s.auto = false) :
    wrlargeState s = endSequence (writeLarge s.img s.startCommand) := by
  simp [wrlargeState, h]

theorem wrsmallState_eq_endSequence {s : State} (h : s.auto = false) :
    wrsmallState s = endSequence (writeSmall s.img s.startCommand) := by
  simp [wrsmallState, h]

theorem detectState_eq_probeChip {s : State} (h : s.auto = true) : detectState s = probeChip s.startCommand := by
  simp [detectState, h]

/-! ### Two runs of one command -/

/-- Two runs that started from s and from s with other results have ended alike but for results that the command has left
alone. -/
def ResultsIgnored (s : State) (q : Seq) (r p o : Bool) (t u : State) : Prop :=
  t = { u with seq := t.seq, result := t.result, path := t.path, qovf := t.qovf } ∧
    (t.seq = u.seq ∨ (t.seq = s.seq ∧ u.seq = q)) ∧ (t.result = u.result ∨ (t.result = s.result ∧ u.result = r)) ∧
    (t.path = u.path ∨ (t.path = s.path ∧ u.path = p)) ∧ (t.qovf = u.qovf ∨ (t.qovf = s.qovf ∧ u.qovf = o))

/-- It is enough that the second run is the first with such results. -/
theorem resultsIgnored_of_eq {s t u : State} {q q' : Seq} {r p o r' p' o' : Bool} (h : u = t.withResults q' r' p' o')
    (hq : t.seq = q' ∨ (t.seq = s.seq ∧ q' = q)) (hr : t.result = r' ∨ (t.result = s.result ∧ r' = r))
    (hp : t.path = p' ∨ (t.path = s.path ∧ p' = p)) (ho : t.qovf = o' ∨ (t.qovf = s.qovf ∧ o' = o)) :
    ResultsIgnored s q r p o t u := by
  subst h
  exact ⟨rfl, hq, hr, hp, ho⟩

/-- A write sequence at the end of a command writes SEQ and carries the flags along. -/
theorem resultsIgnored_of_withFlags {s t u : State} (q : Seq) {r p o : Bool} (h : u = t.withFlags r p o)
    (hr : t.result = s.result) (hp : t.path = s.path) (ho : t.qovf = s.qovf) : ResultsIgnored s q r p o t u :=
  resultsIgnored_of_eq (h.trans (withFlags_eq_withResults t r p o)) (.inl rfl) (.inr ⟨hr, rfl⟩) (.inr ⟨hp, rfl⟩)
    (.inr ⟨ho, rfl⟩)

/-- A command that reaches none of the four. -/
theorem resultsIgnored_of_kept {s t u : State} {q : Seq} {r p o : Bool} (h : u = t.withResults q r p o)
    (hq : t.seq = s.seq) (hr : t.result = s.result) (hp : t.path = s.path) (ho : t.qovf = s.qovf) :
    ResultsIgnored s q r p o t u :=
  resultsIgnored_of_eq h (.inr ⟨hq, rfl⟩) (.inr ⟨hr, rfl⟩) (.inr ⟨hp, rfl⟩) (.inr ⟨ho, rfl⟩)

section

variable (s : State) (e : Err) (q : Seq) (r p o : Bool)

theorem divrState_resultsIgnored :
    ResultsIgnored s q r p o (divrState s)
      (divrState { s with err := e, seq := q, result := r, path := p, qovf := o }) := by
  unfold divrState
  split
  · exact resultsIgnored_of_kept rfl rfl rfl rfl rfl
  · exact resultsIgnored_of_eq rfl (.inr ⟨rfl, rfl⟩) (.inr ⟨rfl, rfl⟩) (.inr ⟨rfl, rfl⟩) (.inl rfl)

theorem solveState_resultsIgnored :
    ResultsIgnored s q r p o (solveState s)
      (solveState { s with err := e, seq := q, result := r, path := p, qovf := o }) := by
  unfold solveState
  dsimp only
  split <;> exact resultsIgnored_of_kept rfl rfl rfl rfl rfl

theorem calcState_resultsIgnored :
    ResultsIgnored s q r p o (calcState s)
      (calcState { s with err := e, seq := q, result := r, path := p, qovf := o }) := by
  unfold calcState
  dsimp only
  split
  · exact resultsIgnored_of_kept rfl rfl rfl rfl rfl
  · split <;> exact resultsIgnored_of_kept rfl rfl rfl rfl rfl

theorem wrlargeState_resultsIgnored :
    ResultsIgnored s q r p o (wrlargeState s)
      (wrlargeState { s with err := e, seq := q, result := r, path := p, qovf := o }) := by
  cases hauto : s.auto with
  | true =>
    rw [wrlargeState_of_auto hauto,
      wrlargeState_of_auto (s := { s with err := e, seq := q, result := r, path := p, qovf := o }) hauto]
    exact resultsIgnored_of_kept rfl rfl rfl rfl rfl
  | false =>
    have hrun : wrlargeState { s with err := e, seq := q, result := r, path := p, qovf := o } =
        (wrlargeState s).withFlags r p o :=
      calc _ = endSequence (writeLarge s.img (s.startCommand.withResults q r p o)) :=
            wrlargeState_eq_endSequence (s := { s with err := e, seq := q, result := r, path := p, qovf := o }) hauto
        _ = _ := by rw [writeLarge_withResults, endSequence_withFlags, wrlargeState_eq_endSequence hauto]
    obtain ⟨_, _, _, _, hframe⟩ := wrlargeState_frame s
    exact resultsIgnored_of_withFlags q hrun (by rw [hframe]) (by rw [hframe]) (by rw [hframe])

theorem wrsmallState_resultsIgnored :
    ResultsIgnored s q r p o (wrsmallState s)
      (wrsmallState { s with err := e, seq := q, result := r, path := p, qovf := o }) := by
  cases hauto : s.auto with
  | true =>
    rw [wrsmallState_of_auto hauto,
      wrsmallState_of_auto (s := { s with err := e, seq := q, result := r, path := p, qovf := o }) hauto]
    exact resultsIgnored_of_kept rfl rfl rfl rfl rfl
  | false =>
    have hrun : wrsmallState { s with err := e, seq := q, result := r, path := p, qovf := o } =
        (wrsmallState s).withFlags r p o :=
      calc _ = endSequence (writeSmall s.img (s.startCommand.withResults q r p o)) :=
            wrsmallState_eq_endSequence (s := { s with err := e, seq := q, result := r, path := p, qovf := o }) hauto
        _ = _ := by rw [writeSmall_withResults, endSequence_withFlags, wrsmallState_eq_endSequence hauto]
    obtain ⟨_, _, _, _, hframe⟩ := wrsmallState_frame s
    exact resultsIgnored_of_withFlags q hrun (by rw [hframe]) (by rw [hframe]) (by rw [hframe])

theorem detectState_resultsIgnored :
    ResultsIgnored s q r p o (detectState s)
      (detectState { s with err := e, seq := q, result := r, path := p, qovf := o }) := by
  cases hauto : s.auto with
  | false =>
    rw [detectState_of_resolved hauto,
      detectState_of_resolved (s := { s with err := e, seq := q, result := r, path := p, qovf := o }) hauto]
    exact resultsIgnored_of_kept rfl rfl rfl rfl rfl
  | true =>
    have hfirst : detectState s = probeChip s.startCommand := detectState_eq_probeChip hauto
    have hsecond : detectState { s with err := e, seq := q, result := r, path := p, qovf := o } =
        probeChip (s.startCommand.withResults q r p o) :=
      detectState_eq_probeChip (s := { s with err := e, seq := q, result := r, path := p, qovf := o }) hauto
    obtain ⟨_, _, _, _, _, _, _, hframe⟩ := detectState_frame s
    have hseq : (detectState s).seq = s.seq := by rw [hframe]
    have hpath : (detectState s).path = s.path := by rw [hframe]
    have hqovf : (detectState s).qovf = s.qovf := by rw [hframe]
    rcases probeChip_withResults s.startCommand q r p o with ⟨hresult, hrun⟩ | hrun
    · rw [← hsecond, ← hfirst] at hrun
      exact resultsIgnored_of_kept hrun hseq ((congrArg State.result hfirst).trans hresult) hpath hqovf
    · rw [← hsecond, ← hfirst] at hrun
      exact resultsIgnored_of_eq hrun (.inr ⟨hseq, rfl⟩) (.inl rfl) (.inr ⟨hpath, rfl⟩) (.inr ⟨hqovf, rfl⟩)

/-- SETFREQ carries RESULT and QOVF along; SEQ it either leaves alone or writes, and PATH it writes. -/
theorem setfreqState_withResults (hauto : s.auto = false) :
    let c := smallChange s.freq s.center s.centerValid s.ppm
    let u := setfreqState { s with err := e, seq := q, result := r, path := p, qovf := o }
    ((setfreqState s).seq = s.seq ∧ u = (setfreqState s).withResults q r c o) ∨ u = (setfreqState s).withFlags r c o := by
  intro c u
  cases hc : c with
  | true =>
    have hsecond : u = smallPath (State.withResults { s with err := .ok, path := true } q r true o) :=
      setfreqState_of_small (s := { s with err := e, seq := q, result := r, path := p, qovf := o }) hauto hc
    rw [setfreqState_of_small hauto hc, hsecond]
    exact smallPath_withResults { s with err := .ok, path := true } q r true o
  | false =>
    have hsecond : u = largePath (State.withResults { s with err := .ok, path := false } q r false o) :=
      setfreqState_of_large (s := { s with err := e, seq := q, result := r, path := p, qovf := o }) hauto hc
    rw [setfreqState_of_large hauto hc, hsecond]
    exact largePath_withResults { s with err := .ok, path := false } q r false o

theorem setfreqState_resultsIgnored :
    ResultsIgnored s q r p o (setfreqState s)
      (setfreqState { s with err := e, seq := q, result := r, path := p, qovf := o }) := by
  cases hauto : s.auto with
  | true =>
    rw [setfreqState_of_auto hauto,
      setfreqState_of_auto (s := { s with err := e, seq := q, result := r, path := p, qovf := o }) hauto]
    exact resultsIgnored_of_kept rfl rfl rfl rfl rfl
  | false =>
    have hpath := (setfreqState_outcome s).path hauto
    obtain ⟨_, _, _, _, _, _, _, _, _, _, hframe⟩ := (setfreqState_outcome s).frame
    have hresult : (setfreqState s).result = s.result := by rw [hframe]
    have hqovf : (setfreqState s).qovf = s.qovf := by rw [hframe]
    rcases setfreqState_withResults s e q r p o hauto with ⟨hseq, hrun⟩ | hrun
    · exact resultsIgnored_of_eq hrun (.inr ⟨hseq, rfl⟩) (.inr ⟨hresult, rfl⟩) (.inl hpath) (.inr ⟨hqovf, rfl⟩)
    · exact resultsIgnored_of_eq (hrun.trans (withFlags_eq_withResults ..)) (.inl rfl) (.inr ⟨hresult, rfl⟩) (.inl hpath)
        (.inr ⟨hqovf, rfl⟩)

/-- No command reads the results. -/
theorem commandState_resultsIgnored (i : Instr) :
    ResultsIgnored s q r p o (commandState i s)
      (commandState i { s with err := e, seq := q, result := r, path := p, qovf := o }) := by
  cases i with
  | nop | mul | online => exact resultsIgnored_of_kept rfl rfl rfl rfl rfl
  | decideCmd => exact resultsIgnored_of_eq rfl (.inr ⟨rfl, rfl⟩) (.inl rfl) (.inr ⟨rfl, rfl⟩) (.inr ⟨rfl, rfl⟩)
  | divr => exact divrState_resultsIgnored s e q r p o
  | solve => exact solveState_resultsIgnored s e q r p o
  | calcCmd => exact calcState_resultsIgnored s e q r p o
  | wrlarge => exact wrlargeState_resultsIgnored s e q r p o
  | wrsmall => exact wrsmallState_resultsIgnored s e q r p o
  | detect => exact detectState_resultsIgnored s e q r p o
  | setfreq => exact setfreqState_resultsIgnored s e q r p o

end

/-! ### Commands that end without an error -/

theorem solveState_of_ok {s : State} (h : (solveState s).err = .ok) :
    ∃ d, solveDivider s.params s.freq s.grade = some d ∧ solveState s = { s with err := .ok, div := d } := by
  cases hsolve : solveDivider s.params s.freq s.grade with
  | none => simp [solveState_of_none hsolve] at h
  | some d => exact ⟨d, rfl, solveState_of_some hsolve⟩

theorem calcState_of_ok {s : State} (h : (calcState s).err = .ok) :
    ∃ b, calcImage s.params s.freq s.div s.xtal = .ok b ∧ calcState s = { s with err := .ok, img := b } := by
  by_cases hset : s.div.hs = 0
  · simp [calcState_of_unset hset] at h
  · cases hcalc : calcImage s.params s.freq s.div s.xtal with
    | error e =>
      rw [calcState_of_error hset hcalc] at h
      rcases calcImage_error hcalc with rfl | rfl <;> simp at h
    | ok b => exact ⟨b, rfl, calcState_of_image hset hcalc⟩

/-- After a good write sequence the large path commits what the sequence has left. -/
theorem commitIfGood_of_ok {x : Bool × State} (h : (endSequence x).err = .ok) :
    commitIfGood x = commitTune (endSequence x) := by
  obtain ⟨ok, t⟩ := x
  cases ok with
  | false => simp [endSequence] at h
  | true => rfl

/-- A large change writes with PATH 0 what WRLARGE writes from the same divider and image, and then commits. -/
theorem setfreqState_eq_commit_wrlarge {s : State} {d : Divider} {b : Bytes6} (hauto : s.auto = false)
    (hlarge : smallChange s.freq s.center s.centerValid s.ppm = false)
    (hsolve : solveDivider s.params s.freq s.grade = some d) (hcalc : calcImage s.params s.freq d s.xtal = .ok b)
    (hok : (wrlargeState { s with err := .ok, div := d, img := b }).err = .ok) :
    setfreqState s =
      (commitTune (wrlargeState { s with err := .ok, div := d, img := b })).withFlags s.result false s.qovf := by
  have hwrlarge : wrlargeState { s with err := .ok, div := d, img := b } =
      endSequence (writeLarge b { s with err := .ok, div := d, img := b }) :=
    wrlargeState_eq_endSequence (s := { s with err := .ok, div := d, img := b }) hauto
  rw [hwrlarge] at hok
  calc setfreqState s
      = largePath { s with err := .ok, path := false } := setfreqState_of_large hauto hlarge
    _ = commitIfGood (writeLarge b
          (State.withResults { s with err := .ok, div := d, img := b } s.seq s.result false s.qovf)) :=
        largePath_eq_commitIfGood (s := { s with err := .ok, path := false }) hsolve hcalc
    _ = (commitIfGood (writeLarge b { s with err := .ok, div := d, img := b })).withFlags s.result false s.qovf := by
        rw [writeLarge_withResults, commitIfGood_withFlags]
    _ = _ := by rw [commitIfGood_of_ok hok, hwrlarge]

end Sys2Proof.Machine

namespace Sys2Proof.Proofs

open Sys2Proof.Machine

/-- Settles O57: command by command, the second run is the first with other results where they are left alone. -/
theorem resultFieldsAreNeverRead : Obligations.ResultFieldsAreNeverRead :=
  fun i s e q r p o => ⟨_, _, exec_eq_next i s, exec_eq_next i _, commandState_resultsIgnored s e q r p o i⟩

/-- Settles O48: the three commands leave the divider, the image and the end of the write sequence that the large path
works with; the two write sequences start from states that differ in PATH only, which no transaction reads. -/
theorem setfreqEqualsStandAloneCommands : Obligations.SetfreqEqualsStandAloneCommands := by
  intro s t1 t2 t3 hauto hlarge h1 hok1 h2 hok2 h3 hok3
  obtain rfl : t1 = solveState s := exec_eq_next_iff.mp h1
  obtain ⟨d, hsolve, hstate1⟩ := solveState_of_ok hok1
  rw [hstate1] at h2
  obtain rfl : t2 = calcState { s with err := .ok, div := d } := exec_eq_next_iff.mp h2
  obtain ⟨b, hcalc, hstate2⟩ := calcState_of_ok hok2
  rw [hstate2] at h3
  obtain rfl : t3 = wrlargeState { s with err := .ok, div := d, img := b } := exec_eq_next_iff.mp h3
  rw [exec_setfreq, setfreqState_eq_commit_wrlarge hauto hlarge hsolve hcalc hok3]
  obtain ⟨e, q, a, tr, hframe⟩ := wrlargeState_frame { s with err := .ok, div := d, img := b }
  rw [hframe]
  rfl

end Sys2Proof.Proofs
